-- ==== Sys2Proof/Word.lean ====
section
/-! DEFINITION. The bit-vector types of the Z8001, its operand widths and its addresses. -/

namespace Sys2Proof

/-- A byte of memory or of a byte register. -/
abbrev Byte := BitVec 8

/-- A word register, a memory word, an offset. -/
abbrev Word := BitVec 16

/-- A long register RRn or a long word of memory (10_state.md R23). -/
abbrev Long := BitVec 32

/-- A quad register RQn (10_state.md R23). -/
abbrev Quad := BitVec 64

/-- A four-bit register field (10_state.md R22, R23). -/
abbrev Reg := BitVec 4

/-- The operation widths: suffix B, no suffix, suffix L (00_scope.md R10). -/
inductive Width where
  | byte
  | word
  | long
deriving DecidableEq, Repr

/-- Bits of an operand: 8, 16 or 32 (00_scope.md R10). -/
@[reducible] def Width.bits : Width → Nat
  | .byte => 8
  | .word => 16
  | .long => 32

/-- Bytes of an operand in memory: 1, 2 or 4 (20_memory.md R64). -/
@[reducible] def Width.bytes : Width → Nat
  | .byte => 1
  | .word => 2
  | .long => 4

/-- An address: 7-bit segment number and 16-bit offset (20_memory.md R60, R61). -/
structure Addr where
  seg : BitVec 7
  off : Word
deriving DecidableEq, Repr

end Sys2Proof
end

