-- ==== Sys2Proof/Syntax.lean ====
section
/-! DEFINITION. The instructions of the Z8001 as terms (00_scope.md R6): one constructor for each
mnemonic and opcode class of spec/opcode_table.json. The rows of the table that share an opcode byte
and differ in the mode bits and the zero field only (30_encoding.md R100) are one constructor over an
operand type whose constructors are those rows' operand forms. -/

namespace Sys2Proof

/-- The two port spaces (20_memory.md R60). -/
inductive Space where
  | standard
  | special
deriving DecidableEq, Repr

/-- The sixteen condition codes in the order of their codes (44_program_control.md R221);
`always` is the blank code 8. -/
inductive CC where
  | never | lt | le | ule | ov | mi | eq | ult
  | always | ge | gt | ugt | nov | pl | ne | uge
deriving DecidableEq, Repr

/-- The control registers LDCTL can name (10_state.md R38). -/
inductive Ctl where
  | fcw | refresh | psapseg | psapoff | nspseg | nspoff
deriving DecidableEq, Repr

/-- An address inside an instruction: short offset (one word) or long offset (two words)
(30_encoding.md R94). -/
inductive AddrForm where
  | short (seg : BitVec 7) (off : Byte)
  | long (seg : BitVec 7) (off : Word)
deriving DecidableEq, Repr

/-- The forms DA and X: a constant address, or one plus the word register `x`
(30_encoding.md R104, R105). -/
inductive Direct where
  | da (a : AddrForm)
  | idx (x : Reg) (a : AddrForm)
deriving DecidableEq, Repr

/-- A memory operand: IR through the long register `p`, or DA or X (30_encoding.md R103 to R105). -/
inductive Mem where
  | ir (p : Reg)
  | dir (d : Direct)
deriving DecidableEq, Repr

/-- A register or memory operand: R, IR, DA or X (30_encoding.md R102 to R105). -/
inductive Opd where
  | reg (r : Reg)
  | mem (m : Mem)
deriving DecidableEq, Repr

/-- A source operand of `n` bits: IM, R, IR, DA or X (30_encoding.md R101 to R105). -/
inductive Src (n : Nat) where
  | imm (v : BitVec n)
  | reg (r : Reg)
  | mem (m : Mem)
deriving DecidableEq, Repr

/-- The address a DA or X operand holds in the instruction (30_encoding.md R94). -/
def AddrForm.addr : AddrForm → Addr
  | .short g o => ⟨g, o.setWidth 16⟩
  | .long g o => ⟨g, o⟩

/-- Words an address takes (30_encoding.md R93, R94). -/
def AddrForm.words : AddrForm → Nat
  | .short _ _ => 1
  | .long _ _ => 2

/-- Words that follow the first word for a DA or X operand (30_encoding.md R93). -/
def Direct.words : Direct → Nat
  | .da a => a.words
  | .idx _ a => a.words

/-- Words that follow the first word for a memory operand (30_encoding.md R93). -/
def Mem.words : Mem → Nat
  | .ir _ => 0
  | .dir d => d.words

/-- Words that follow the first word for a register or memory operand (30_encoding.md R93). -/
def Opd.words : Opd → Nat
  | .reg _ => 0
  | .mem m => m.words

/-- Words that follow the first word for a source operand: an 8-bit or 16-bit immediate takes one,
a 32-bit immediate two (30_encoding.md R93). -/
def Src.words {n : Nat} : Src n → Nat
  | .imm _ => if n = 32 then 2 else 1
  | .reg _ => 0
  | .mem m => m.words

/-- The instructions. Each constructor's comment names its mnemonic and operands in
spec/opcode_table.json, the rule of its meaning and the rule of its encoding. -/
inductive Instr where
  -- Two operands: register destination, source IM, R, IR, DA or X (30_encoding.md R110).
  /-- ADDB Rbd,src: 41_arithmetic.md R162; R110. -/
  | addb (d : Reg) (src : Src 8)
  /-- ADD Rd,src: 41_arithmetic.md R162; R110. -/
  | add (d : Reg) (src : Src 16)
  /-- ADDL RRd,src: 41_arithmetic.md R162; R110. -/
  | addl (d : Reg) (src : Src 32)
  /-- SUBB Rbd,src: 41_arithmetic.md R172; R110. -/
  | subb (d : Reg) (src : Src 8)
  /-- SUB Rd,src: 41_arithmetic.md R172; R110. -/
  | sub (d : Reg) (src : Src 16)
  /-- SUBL RRd,src: 41_arithmetic.md R172; R110. -/
  | subl (d : Reg) (src : Src 32)
  /-- ORB Rbd,src: 42_logical_bit.md R183; R110. -/
  | orb (d : Reg) (src : Src 8)
  /-- OR Rd,src: 42_logical_bit.md R183; R110. -/
  | or (d : Reg) (src : Src 16)
  /-- ANDB Rbd,src: 42_logical_bit.md R181; R110. -/
  | andb (d : Reg) (src : Src 8)
  /-- AND Rd,src: 42_logical_bit.md R181; R110. -/
  | and (d : Reg) (src : Src 16)
  /-- XORB Rbd,src: 42_logical_bit.md R185; R110. -/
  | xorb (d : Reg) (src : Src 8)
  /-- XOR Rd,src: 42_logical_bit.md R185; R110. -/
  | xor (d : Reg) (src : Src 16)
  /-- CPB Rbd,src: 41_arithmetic.md R163; R110. -/
  | cpb (d : Reg) (src : Src 8)
  /-- CP Rd,src: 41_arithmetic.md R163; R110. -/
  | cp (d : Reg) (src : Src 16)
  /-- CPL RRd,src: 41_arithmetic.md R163; R110. -/
  | cpl (d : Reg) (src : Src 32)
  /-- LDB Rbd,src: 40_load_exchange.md R143; R110. -/
  | ldb (d : Reg) (src : Src 8)
  /-- LD Rd,src: 40_load_exchange.md R143; R110. -/
  | ld (d : Reg) (src : Src 16)
  /-- LDL RRd,src: 40_load_exchange.md R143; R110. -/
  | ldl (d : Reg) (src : Src 32)
  /-- MULT RRd,src: 41_arithmetic.md R169; R110. -/
  | mult (d : Reg) (src : Src 16)
  /-- MULTL RQd,src: 41_arithmetic.md R169; R110. -/
  | multl (d : Reg) (src : Src 32)
  /-- DIV RRd,src: 41_arithmetic.md R166; R110. -/
  | div (d : Reg) (src : Src 16)
  /-- DIVL RQd,src: 41_arithmetic.md R166; R110. -/
  | divl (d : Reg) (src : Src 32)
  -- Exchange: source R, IR, DA or X (30_encoding.md R114).
  /-- EXB Rbd,src: 40_load_exchange.md R142; R114. -/
  | exb (d : Reg) (src : Opd)
  /-- EX Rd,src: 40_load_exchange.md R142; R114. -/
  | ex (d : Reg) (src : Opd)
  -- One operand: R, IR, DA or X (30_encoding.md R111, R113).
  /-- COMB dst: 42_logical_bit.md R182; R111. -/
  | comb (dst : Opd)
  /-- COM dst: 42_logical_bit.md R182; R111. -/
  | com (dst : Opd)
  /-- NEGB dst: 41_arithmetic.md R170; R111. -/
  | negb (dst : Opd)
  /-- NEG dst: 41_arithmetic.md R170; R111. -/
  | neg (dst : Opd)
  /-- TESTB dst: 42_logical_bit.md R184; R111. -/
  | testb (dst : Opd)
  /-- TEST dst: 42_logical_bit.md R184; R111. -/
  | test (dst : Opd)
  /-- TESTL dst: 42_logical_bit.md R184; R113. -/
  | testl (dst : Opd)
  /-- TSETB dst: 42_logical_bit.md R195; R111. -/
  | tsetb (dst : Opd)
  /-- TSET dst: 42_logical_bit.md R195; R111. -/
  | tset (dst : Opd)
  /-- CLRB dst: 40_load_exchange.md R141; R111. -/
  | clrb (dst : Opd)
  /-- CLR dst: 40_load_exchange.md R141; R111. -/
  | clr (dst : Opd)
  -- Immediate with a memory operand IR, DA or X (30_encoding.md R111).
  /-- CPB dst,#imm: 41_arithmetic.md R163; R111. -/
  | cpbImm (dst : Mem) (v : Byte)
  /-- CP dst,#imm: 41_arithmetic.md R163; R111. -/
  | cpImm (dst : Mem) (v : Word)
  /-- LDB dst,#imm: 40_load_exchange.md R143; R111. -/
  | ldbImm (dst : Mem) (v : Byte)
  /-- LD dst,#imm: 40_load_exchange.md R143; R111. -/
  | ldImm (dst : Mem) (v : Word)
  -- Control byte and flags (30_encoding.md R111).
  /-- LDCTLB Rbd,FLAGS: 47_cpu_control.md R298; R111. -/
  | ldctlbRead (d : Reg)
  /-- LDCTLB FLAGS,Rbs: 47_cpu_control.md R298; R111. -/
  | ldctlbWrite (s : Reg)
  /-- SETFLG flags: 47_cpu_control.md R309; R111. -/
  | setflg (f : BitVec 4)
  /-- RESFLG flags: 47_cpu_control.md R307; R111. -/
  | resflg (f : BitVec 4)
  /-- COMFLG flags: 47_cpu_control.md R291; R111. -/
  | comflg (f : BitVec 4)
  /-- NOP: 47_cpu_control.md R306; R111. -/
  | nop
  -- Stack (30_encoding.md R111, R112).
  /-- PUSH @RRd,#imm16: 40_load_exchange.md R150; R111. -/
  | pushImm (p : Reg) (v : Word)
  /-- PUSH @RRd,src: 40_load_exchange.md R150; R112. -/
  | push (p : Reg) (src : Opd)
  /-- PUSHL @RRd,src: 40_load_exchange.md R150; R112. -/
  | pushl (p : Reg) (src : Opd)
  /-- POP dst,@RRs: 40_load_exchange.md R149; R112. -/
  | pop (dst : Opd) (p : Reg)
  /-- POPL dst,@RRs: 40_load_exchange.md R149; R112. -/
  | popl (dst : Opd) (p : Reg)
  -- Load multiple; the field n1 is n - 1 (30_encoding.md R113, R95).
  /-- LDM Rd,src,n: 40_load_exchange.md R147; R113. -/
  | ldmLoad (d : Reg) (src : Mem) (n1 : BitVec 4)
  /-- LDM dst,Rs,n: 40_load_exchange.md R147; R113. -/
  | ldmStore (dst : Mem) (s : Reg) (n1 : BitVec 4)
  -- Stores (30_encoding.md R113, R114).
  /-- LDB dst,Rbs: 40_load_exchange.md R143; R114. -/
  | ldbStore (dst : Mem) (s : Reg)
  /-- LD dst,Rs: 40_load_exchange.md R143; R114. -/
  | ldStore (dst : Mem) (s : Reg)
  /-- LDL dst,RRs: 40_load_exchange.md R143; R113. -/
  | ldlStore (dst : Mem) (s : Reg)
  -- Jumps, calls, returns (30_encoding.md R113).
  /-- JP cc,dst: 44_program_control.md R225; R113. -/
  | jp (cc : CC) (dst : Mem)
  /-- CALL dst: 44_program_control.md R222; R113. -/
  | call (dst : Mem)
  /-- RET cc: 44_program_control.md R227; R113. -/
  | ret (cc : CC)
  -- Bits: static bit number, then the dynamic form with the bit number in a register (30_encoding.md R114).
  /-- RESB dst,#b: 42_logical_bit.md R192; R114. -/
  | resb (dst : Opd) (b : BitVec 3)
  /-- RES dst,#b: 42_logical_bit.md R192; R114. -/
  | res (dst : Opd) (b : BitVec 4)
  /-- RESB Rbd,Rs: 42_logical_bit.md R192; R114. -/
  | resbDyn (d s : Reg)
  /-- RES Rd,Rs: 42_logical_bit.md R192; R114. -/
  | resDyn (d s : Reg)
  /-- SETB dst,#b: 42_logical_bit.md R193; R114. -/
  | setb (dst : Opd) (b : BitVec 3)
  /-- SET dst,#b: 42_logical_bit.md R193; R114. -/
  | set (dst : Opd) (b : BitVec 4)
  /-- SETB Rbd,Rs: 42_logical_bit.md R193; R114. -/
  | setbDyn (d s : Reg)
  /-- SET Rd,Rs: 42_logical_bit.md R193; R114. -/
  | setDyn (d s : Reg)
  /-- BITB dst,#b: 42_logical_bit.md R191; R114. -/
  | bitb (dst : Opd) (b : BitVec 3)
  /-- BIT dst,#b: 42_logical_bit.md R191; R114. -/
  | bit (dst : Opd) (b : BitVec 4)
  /-- BITB Rbd,Rs: 42_logical_bit.md R191; R114. -/
  | bitbDyn (d s : Reg)
  /-- BIT Rd,Rs: 42_logical_bit.md R191; R114. -/
  | bitDyn (d s : Reg)
  -- Increment and decrement; the field n1 is n - 1 (30_encoding.md R114, R95).
  /-- INCB dst,#n: 41_arithmetic.md R168; R114. -/
  | incb (dst : Opd) (n1 : BitVec 4)
  /-- INC dst,#n: 41_arithmetic.md R168; R114. -/
  | inc (dst : Opd) (n1 : BitVec 4)
  /-- DECB dst,#n: 41_arithmetic.md R165; R114. -/
  | decb (dst : Opd) (n1 : BitVec 4)
  /-- DEC dst,#n: 41_arithmetic.md R165; R114. -/
  | dec (dst : Opd) (n1 : BitVec 4)
  -- Test condition code (30_encoding.md R114).
  /-- TCCB cc,Rbd: 42_logical_bit.md R186; R114. -/
  | tccb (cc : CC) (d : Reg)
  /-- TCC cc,Rd: 42_logical_bit.md R186; R114. -/
  | tcc (cc : CC) (d : Reg)
  -- Relative, based and based indexed loads and stores (30_encoding.md R115, R116).
  /-- LDRB Rbd,disp: 40_load_exchange.md R148; R115. -/
  | ldrbLoad (d : Reg) (disp : Word)
  /-- LDRB disp,Rbs: 40_load_exchange.md R148; R115. -/
  | ldrbStore (disp : Word) (s : Reg)
  /-- LDB Rbd,RRs[#disp]: 40_load_exchange.md R143; R115. -/
  | ldbBA (d p : Reg) (disp : Word)
  /-- LDB RRd[#disp],Rbs: 40_load_exchange.md R143; R115. -/
  | ldbStoreBA (p : Reg) (disp : Word) (s : Reg)
  /-- LDB Rbd,RRs[Rx]: 40_load_exchange.md R143; R116. -/
  | ldbBX (d p x : Reg)
  /-- LDB RRd[Rx],Rbs: 40_load_exchange.md R143; R116. -/
  | ldbStoreBX (p x s : Reg)
  /-- LDR Rd,disp: 40_load_exchange.md R148; R115. -/
  | ldrLoad (d : Reg) (disp : Word)
  /-- LDR disp,Rs: 40_load_exchange.md R148; R115. -/
  | ldrStore (disp : Word) (s : Reg)
  /-- LD Rd,RRs[#disp]: 40_load_exchange.md R143; R115. -/
  | ldBA (d p : Reg) (disp : Word)
  /-- LD RRd[#disp],Rs: 40_load_exchange.md R143; R115. -/
  | ldStoreBA (p : Reg) (disp : Word) (s : Reg)
  /-- LD Rd,RRs[Rx]: 40_load_exchange.md R143; R116. -/
  | ldBX (d p x : Reg)
  /-- LD RRd[Rx],Rs: 40_load_exchange.md R143; R116. -/
  | ldStoreBX (p x s : Reg)
  /-- LDRL RRd,disp: 40_load_exchange.md R148; R115. -/
  | ldrlLoad (d : Reg) (disp : Word)
  /-- LDRL disp,RRs: 40_load_exchange.md R148; R115. -/
  | ldrlStore (disp : Word) (s : Reg)
  /-- LDL RRd,RRs[#disp]: 40_load_exchange.md R143; R115. -/
  | ldlBA (d p : Reg) (disp : Word)
  /-- LDL RRd[#disp],RRs: 40_load_exchange.md R143; R115. -/
  | ldlStoreBA (p : Reg) (disp : Word) (s : Reg)
  /-- LDL RRd,RRs[Rx]: 40_load_exchange.md R143; R116. -/
  | ldlBX (d p x : Reg)
  /-- LDL RRd[Rx],RRs: 40_load_exchange.md R143; R116. -/
  | ldlStoreBX (p x s : Reg)
  -- Load address (30_encoding.md R115, R116).
  /-- LDA RRd,src: 40_load_exchange.md R144; R116. -/
  | lda (d : Reg) (src : Direct)
  /-- LDA RRd,RRs[#disp]: 40_load_exchange.md R144; R115. -/
  | ldaBA (d p : Reg) (disp : Word)
  /-- LDA RRd,RRs[Rx]: 40_load_exchange.md R144; R116. -/
  | ldaBX (d p x : Reg)
  /-- LDAR RRd,disp: 40_load_exchange.md R145; R115. -/
  | ldar (d : Reg) (disp : Word)
  -- Single input and output, privileged (30_encoding.md R115, R118).
  /-- INB Rbd,@Rs: 46_input_output.md R267; R115. -/
  | inbInd (d p : Reg)
  /-- IN Rd,@Rs: 46_input_output.md R267; R115. -/
  | inInd (d p : Reg)
  /-- OUTB @Rd,Rbs: 46_input_output.md R274; R115. -/
  | outbInd (p s : Reg)
  /-- OUT @Rd,Rs: 46_input_output.md R274; R115. -/
  | outInd (p s : Reg)
  /-- IN Rd,port: 46_input_output.md R267; R118. -/
  | in_ (d : Reg) (port : Word)
  /-- INB Rbd,port: 46_input_output.md R267; R118. -/
  | inb (d : Reg) (port : Word)
  /-- SIN Rd,port: 46_input_output.md R267; R118. -/
  | sin (d : Reg) (port : Word)
  /-- SINB Rbd,port: 46_input_output.md R267; R118. -/
  | sinb (d : Reg) (port : Word)
  /-- OUT port,Rs: 46_input_output.md R274; R118. -/
  | out (port : Word) (s : Reg)
  /-- OUTB port,Rbs: 46_input_output.md R274; R118. -/
  | outb (port : Word) (s : Reg)
  /-- SOUT port,Rs: 46_input_output.md R274; R118. -/
  | sout (port : Word) (s : Reg)
  /-- SOUTB port,Rbs: 46_input_output.md R274; R118. -/
  | soutb (port : Word) (s : Reg)
  -- CPU control (30_encoding.md R115, R116).
  /-- LDPS src: 47_cpu_control.md R300; R115, R116. -/
  | ldps (src : Mem)
  /-- HALT: 47_cpu_control.md R294; R116. -/
  | halt
  /-- IRET: 47_cpu_control.md R296; R116. -/
  | iret
  /-- MSET: 47_cpu_control.md R305; R116. -/
  | mset
  /-- MRES: 47_cpu_control.md R304; R116. -/
  | mres
  /-- MBIT: 47_cpu_control.md R302; R116. -/
  | mbit
  /-- MREQ Rd: 47_cpu_control.md R303; R116. -/
  | mreq (d : Reg)
  /-- DI ints; true = named: 47_cpu_control.md R292; R116. -/
  | di (vi nvi : Bool)
  /-- EI ints; true = named: 47_cpu_control.md R293; R116. -/
  | ei (vi nvi : Bool)
  /-- LDCTL Rd,ctl: 47_cpu_control.md R297; R116. -/
  | ldctlRead (d : Reg) (c : Ctl)
  /-- LDCTL ctl,Rs: 47_cpu_control.md R297; R116. -/
  | ldctlWrite (c : Ctl) (s : Reg)
  /-- SC #n: 47_cpu_control.md R308; R116. -/
  | sc (n : Byte)
  -- Register group of opcode bytes B0 to BF (30_encoding.md R117).
  /-- DAB Rbd: 41_arithmetic.md R164; R117. -/
  | dab (d : Reg)
  /-- EXTSB Rd: 41_arithmetic.md R167; R117. -/
  | extsb (d : Reg)
  /-- EXTS RRd: 41_arithmetic.md R167; R117. -/
  | exts (d : Reg)
  /-- EXTSL RQd: 41_arithmetic.md R167; R117. -/
  | extsl (d : Reg)
  /-- ADCB Rbd,Rbs: 41_arithmetic.md R161; R117. -/
  | adcb (d s : Reg)
  /-- ADC Rd,Rs: 41_arithmetic.md R161; R117. -/
  | adc (d s : Reg)
  /-- SBCB Rbd,Rbs: 41_arithmetic.md R171; R117. -/
  | sbcb (d s : Reg)
  /-- SBC Rd,Rs: 41_arithmetic.md R171; R117. -/
  | sbc (d s : Reg)
  /-- RLDB Rbl,Rbs: 43_rotate_shift.md R203; R117. -/
  | rldb (l s : Reg)
  /-- RRDB Rbl,Rbs: 43_rotate_shift.md R206; R117. -/
  | rrdb (l s : Reg)
  /-- LDK Rd,#n: 40_load_exchange.md R146; R117. -/
  | ldk (d : Reg) (n : BitVec 4)
  -- Rotates by one place or, with two = true, by two (30_encoding.md R119).
  /-- RLB Rbd,#n: 43_rotate_shift.md R201; R119. -/
  | rlb (d : Reg) (two : Bool)
  /-- RL Rd,#n: 43_rotate_shift.md R201; R119. -/
  | rl (d : Reg) (two : Bool)
  /-- RRB Rbd,#n: 43_rotate_shift.md R204; R119. -/
  | rrb (d : Reg) (two : Bool)
  /-- RR Rd,#n: 43_rotate_shift.md R204; R119. -/
  | rr (d : Reg) (two : Bool)
  /-- RLCB Rbd,#n: 43_rotate_shift.md R202; R119. -/
  | rlcb (d : Reg) (two : Bool)
  /-- RLC Rd,#n: 43_rotate_shift.md R202; R119. -/
  | rlc (d : Reg) (two : Bool)
  /-- RRCB Rbd,#n: 43_rotate_shift.md R205; R119. -/
  | rrcb (d : Reg) (two : Bool)
  /-- RRC Rd,#n: 43_rotate_shift.md R205; R119. -/
  | rrc (d : Reg) (two : Bool)
  -- Static shifts by n places (30_encoding.md R119, R95).
  /-- SLLB Rbd,#n: 43_rotate_shift.md R210; R119. -/
  | sllb (d : Reg) (n : Nat)
  /-- SLL Rd,#n: 43_rotate_shift.md R210; R119. -/
  | sll (d : Reg) (n : Nat)
  /-- SLLL RRd,#n: 43_rotate_shift.md R210; R119. -/
  | slll (d : Reg) (n : Nat)
  /-- SRLB Rbd,#n: 43_rotate_shift.md R212; R119. -/
  | srlb (d : Reg) (n : Nat)
  /-- SRL Rd,#n: 43_rotate_shift.md R212; R119. -/
  | srl (d : Reg) (n : Nat)
  /-- SRLL RRd,#n: 43_rotate_shift.md R212; R119. -/
  | srll (d : Reg) (n : Nat)
  /-- SLAB Rbd,#n: 43_rotate_shift.md R209; R119. -/
  | slab (d : Reg) (n : Nat)
  /-- SLA Rd,#n: 43_rotate_shift.md R209; R119. -/
  | sla (d : Reg) (n : Nat)
  /-- SLAL RRd,#n: 43_rotate_shift.md R209; R119. -/
  | slal (d : Reg) (n : Nat)
  /-- SRAB Rbd,#n: 43_rotate_shift.md R211; R119. -/
  | srab (d : Reg) (n : Nat)
  /-- SRA Rd,#n: 43_rotate_shift.md R211; R119. -/
  | sra (d : Reg) (n : Nat)
  /-- SRAL RRd,#n: 43_rotate_shift.md R211; R119. -/
  | sral (d : Reg) (n : Nat)
  -- Dynamic shifts, the count in the word register s (30_encoding.md R119).
  /-- SDLB Rbd,Rs: 43_rotate_shift.md R208; R119. -/
  | sdlb (d s : Reg)
  /-- SDL Rd,Rs: 43_rotate_shift.md R208; R119. -/
  | sdl (d s : Reg)
  /-- SDLL RRd,Rs: 43_rotate_shift.md R208; R119. -/
  | sdll (d s : Reg)
  /-- SDAB Rbd,Rs: 43_rotate_shift.md R207; R119. -/
  | sdab (d s : Reg)
  /-- SDA Rd,Rs: 43_rotate_shift.md R207; R119. -/
  | sda (d s : Reg)
  /-- SDAL RRd,Rs: 43_rotate_shift.md R207; R119. -/
  | sdal (d s : Reg)
  -- Translate: first pointer d, table pointer s, count r (30_encoding.md R120).
  /-- TRIB @RRd,@RRs,r: 45_block_string.md R251; R120. -/
  | trib (d s r : Reg)
  /-- TRIRB @RRd,@RRs,r: 45_block_string.md R252; R120. -/
  | trirb (d s r : Reg)
  /-- TRDB @RRd,@RRs,r: 45_block_string.md R249; R120. -/
  | trdb (d s r : Reg)
  /-- TRDRB @RRd,@RRs,r: 45_block_string.md R250; R120. -/
  | trdrb (d s r : Reg)
  /-- TRTIB @RRd,@RRs,r: 45_block_string.md R255; R120. -/
  | trtib (d s r : Reg)
  /-- TRTIRB @RRd,@RRs,r: 45_block_string.md R256; R120. -/
  | trtirb (d s r : Reg)
  /-- TRTDB @RRd,@RRs,r: 45_block_string.md R253; R120. -/
  | trtdb (d s r : Reg)
  /-- TRTDRB @RRd,@RRs,r: 45_block_string.md R254; R120. -/
  | trtdrb (d s r : Reg)
  -- Compare a register with a block: source pointer s, count r (30_encoding.md R121).
  /-- CPIB Rbd,@RRs,r,cc: 45_block_string.md R239; R121. -/
  | cpib (d s r : Reg) (cc : CC)
  /-- CPI Rd,@RRs,r,cc: 45_block_string.md R239; R121. -/
  | cpi (d s r : Reg) (cc : CC)
  /-- CPIRB Rbd,@RRs,r,cc: 45_block_string.md R240; R121. -/
  | cpirb (d s r : Reg) (cc : CC)
  /-- CPIR Rd,@RRs,r,cc: 45_block_string.md R240; R121. -/
  | cpir (d s r : Reg) (cc : CC)
  /-- CPDB Rbd,@RRs,r,cc: 45_block_string.md R237; R121. -/
  | cpdb (d s r : Reg) (cc : CC)
  /-- CPD Rd,@RRs,r,cc: 45_block_string.md R237; R121. -/
  | cpd (d s r : Reg) (cc : CC)
  /-- CPDRB Rbd,@RRs,r,cc: 45_block_string.md R238; R121. -/
  | cpdrb (d s r : Reg) (cc : CC)
  /-- CPDR Rd,@RRs,r,cc: 45_block_string.md R238; R121. -/
  | cpdr (d s r : Reg) (cc : CC)
  -- Compare strings: pointers d and s, count r (30_encoding.md R121).
  /-- CPSIB @RRd,@RRs,r,cc: 45_block_string.md R243; R121. -/
  | cpsib (d s r : Reg) (cc : CC)
  /-- CPSI @RRd,@RRs,r,cc: 45_block_string.md R243; R121. -/
  | cpsi (d s r : Reg) (cc : CC)
  /-- CPSIRB @RRd,@RRs,r,cc: 45_block_string.md R244; R121. -/
  | cpsirb (d s r : Reg) (cc : CC)
  /-- CPSIR @RRd,@RRs,r,cc: 45_block_string.md R244; R121. -/
  | cpsir (d s r : Reg) (cc : CC)
  /-- CPSDB @RRd,@RRs,r,cc: 45_block_string.md R241; R121. -/
  | cpsdb (d s r : Reg) (cc : CC)
  /-- CPSD @RRd,@RRs,r,cc: 45_block_string.md R241; R121. -/
  | cpsd (d s r : Reg) (cc : CC)
  /-- CPSDRB @RRd,@RRs,r,cc: 45_block_string.md R242; R121. -/
  | cpsdrb (d s r : Reg) (cc : CC)
  /-- CPSDR @RRd,@RRs,r,cc: 45_block_string.md R242; R121. -/
  | cpsdr (d s r : Reg) (cc : CC)
  -- Block move: pointers d and s, count r (30_encoding.md R121).
  /-- LDIB @RRd,@RRs,r: 45_block_string.md R247; R121. -/
  | ldib (d s r : Reg)
  /-- LDI @RRd,@RRs,r: 45_block_string.md R247; R121. -/
  | ldi (d s r : Reg)
  /-- LDIRB @RRd,@RRs,r: 45_block_string.md R248; R121. -/
  | ldirb (d s r : Reg)
  /-- LDIR @RRd,@RRs,r: 45_block_string.md R248; R121. -/
  | ldir (d s r : Reg)
  /-- LDDB @RRd,@RRs,r: 45_block_string.md R245; R121. -/
  | lddb (d s r : Reg)
  /-- LDD @RRd,@RRs,r: 45_block_string.md R245; R121. -/
  | ldd (d s r : Reg)
  /-- LDDRB @RRd,@RRs,r: 45_block_string.md R246; R121. -/
  | lddrb (d s r : Reg)
  /-- LDDR @RRd,@RRs,r: 45_block_string.md R246; R121. -/
  | lddr (d s r : Reg)
  -- Block input, privileged: memory pointer d, port register s, count r (30_encoding.md R118).
  /-- INI @RRd,@Rs,r: 46_input_output.md R270; R118. -/
  | ini (d s r : Reg)
  /-- INIB @RRd,@Rs,r: 46_input_output.md R270; R118. -/
  | inib (d s r : Reg)
  /-- SINI @RRd,@Rs,r: 46_input_output.md R270; R118. -/
  | sini (d s r : Reg)
  /-- SINIB @RRd,@Rs,r: 46_input_output.md R270; R118. -/
  | sinib (d s r : Reg)
  /-- INIR @RRd,@Rs,r: 46_input_output.md R271; R118. -/
  | inir (d s r : Reg)
  /-- INIRB @RRd,@Rs,r: 46_input_output.md R271; R118. -/
  | inirb (d s r : Reg)
  /-- SINIR @RRd,@Rs,r: 46_input_output.md R271; R118. -/
  | sinir (d s r : Reg)
  /-- SINIRB @RRd,@Rs,r: 46_input_output.md R271; R118. -/
  | sinirb (d s r : Reg)
  /-- IND @RRd,@Rs,r: 46_input_output.md R268; R118. -/
  | ind (d s r : Reg)
  /-- INDB @RRd,@Rs,r: 46_input_output.md R268; R118. -/
  | indb (d s r : Reg)
  /-- SIND @RRd,@Rs,r: 46_input_output.md R268; R118. -/
  | sind (d s r : Reg)
  /-- SINDB @RRd,@Rs,r: 46_input_output.md R268; R118. -/
  | sindb (d s r : Reg)
  /-- INDR @RRd,@Rs,r: 46_input_output.md R269; R118. -/
  | indr (d s r : Reg)
  /-- INDRB @RRd,@Rs,r: 46_input_output.md R269; R118. -/
  | indrb (d s r : Reg)
  /-- SINDR @RRd,@Rs,r: 46_input_output.md R269; R118. -/
  | sindr (d s r : Reg)
  /-- SINDRB @RRd,@Rs,r: 46_input_output.md R269; R118. -/
  | sindrb (d s r : Reg)
  -- Block output, privileged: port register d, memory pointer s, count r (30_encoding.md R118).
  /-- OUTI @Rd,@RRs,r: 46_input_output.md R276; R118. -/
  | outi (d s r : Reg)
  /-- OUTIB @Rd,@RRs,r: 46_input_output.md R276; R118. -/
  | outib (d s r : Reg)
  /-- SOUTI @Rd,@RRs,r: 46_input_output.md R276; R118. -/
  | souti (d s r : Reg)
  /-- SOUTIB @Rd,@RRs,r: 46_input_output.md R276; R118. -/
  | soutib (d s r : Reg)
  /-- OTIR @Rd,@RRs,r: 46_input_output.md R273; R118. -/
  | otir (d s r : Reg)
  /-- OTIRB @Rd,@RRs,r: 46_input_output.md R273; R118. -/
  | otirb (d s r : Reg)
  /-- SOTIR @Rd,@RRs,r: 46_input_output.md R273; R118. -/
  | sotir (d s r : Reg)
  /-- SOTIRB @Rd,@RRs,r: 46_input_output.md R273; R118. -/
  | sotirb (d s r : Reg)
  /-- OUTD @Rd,@RRs,r: 46_input_output.md R275; R118. -/
  | outd (d s r : Reg)
  /-- OUTDB @Rd,@RRs,r: 46_input_output.md R275; R118. -/
  | outdb (d s r : Reg)
  /-- SOUTD @Rd,@RRs,r: 46_input_output.md R275; R118. -/
  | soutd (d s r : Reg)
  /-- SOUTDB @Rd,@RRs,r: 46_input_output.md R275; R118. -/
  | soutdb (d s r : Reg)
  /-- OTDR @Rd,@RRs,r: 46_input_output.md R272; R118. -/
  | otdr (d s r : Reg)
  /-- OTDRB @Rd,@RRs,r: 46_input_output.md R272; R118. -/
  | otdrb (d s r : Reg)
  /-- SOTDR @Rd,@RRs,r: 46_input_output.md R272; R118. -/
  | sotdr (d s r : Reg)
  /-- SOTDRB @Rd,@RRs,r: 46_input_output.md R272; R118. -/
  | sotdrb (d s r : Reg)
  -- Compact formats (30_encoding.md R122).
  /-- LDB Rbd,#imm8, one word: 40_load_exchange.md R143; R122. -/
  | ldbShort (d : Reg) (v : Byte)
  /-- CALR disp12: 44_program_control.md R223; R122. -/
  | calr (p : BitVec 12)
  /-- JR cc,disp8: 44_program_control.md R226; R122. -/
  | jr (cc : CC) (p : Byte)
  /-- DBJNZ Rbr,disp7: 44_program_control.md R224; R122. -/
  | dbjnz (r : Reg) (p : BitVec 7)
  /-- DJNZ Rr,disp7: 44_program_control.md R224; R122. -/
  | djnz (r : Reg) (p : BitVec 7)
  -- Extended-instruction opcodes: low byte and second word are not interpreted (30_encoding.md R131).
  /-- EPU_0E: 60_exceptions.md R334; R131. -/
  | epu0E (lo : Byte) (w2 : Word)
  /-- EPU_0F: 60_exceptions.md R334; R131. -/
  | epu0F (lo : Byte) (w2 : Word)
  /-- EPU_4E: 60_exceptions.md R334; R131. -/
  | epu4E (lo : Byte) (w2 : Word)
  /-- EPU_4F: 60_exceptions.md R334; R131. -/
  | epu4F (lo : Byte) (w2 : Word)
  /-- EPU_8E: 60_exceptions.md R334; R131. -/
  | epu8E (lo : Byte) (w2 : Word)
  /-- EPU_8F: 60_exceptions.md R334; R131. -/
  | epu8F (lo : Byte) (w2 : Word)
deriving DecidableEq, Repr

end Sys2Proof
end

