-- ==== Sys2Proof/Config.lean ====
section
/-! DEFINITION. What the spec leaves to the implementation or the environment: constants with no
body, so that no proof can see their values. -/

namespace Sys2Proof

/-- DESIGN CHOICE (log 4). The free value of index `n`: the spec's `draw(W)` (00_scope.md R8) is the
low `W` bits of it. The step reads it at the counter `draws` of the state and advances the counter. -/
opaque Config.draw : Nat → Quad

/-- DESIGN CHOICE (log 5). The spec's oracle `io_read` (00_scope.md R5, 46_input_output.md R266): the
value a read of `port` gives at draw index `n`; a byte read takes the low byte. -/
opaque Config.ioRead : Space → Word → Width → Nat → Word

/-- DESIGN CHOICE (log 6). The spec's oracle `mi_pin` (47_cpu_control.md R301): true when /Mi is
asserted (low) at the read of index `n`. -/
opaque Config.miPin : Nat → Bool

/-- DESIGN CHOICE (log 7). The open parameter `sc_privileged` (47_cpu_control.md R308, 90_conflicts.md C7). -/
opaque Config.scPrivileged : Bool

/-- DESIGN CHOICE (log 8). The open parameter `priv_trap_saved_pc` (60_exceptions.md R346): true when the
privileged-instruction and extended-instruction traps save `next_pc`, false when they save the address
of the second word. -/
opaque Config.privTrapSavesNextPc : Bool

end Sys2Proof
end

