-- ==== Sys2Proof/WellFormed.lean ====
section
/-! DEFINITION. Which terms are instructions of the machine: the constraints on fields that
spec/opcode_table.json and 30_encoding.md R132 state, as one check that evaluates. -/

namespace Sys2Proof

/-- A field that names a long register: even (30_encoding.md R132, "n=0-14,even"). -/
def longReg (r : Reg) : Bool := !r.getLsbD 0

/-- A field that names a quad register: 0, 4, 8 or 12 (30_encoding.md R132). -/
def quadReg (r : Reg) : Bool := !r.getLsbD 0 && !r.getLsbD 1

/-- A field that names an index register or a port register: not 0 (30_encoding.md R100, R132). -/
def indexReg (r : Reg) : Bool := decide (r ≠ 0)

/-- A field that names a pointer or base register RR2 to RR14 (30_encoding.md R103, R107, R132). -/
def pointerReg (r : Reg) : Bool := longReg r && decide (r ≠ 0)

/-- The check on a DA or X operand (30_encoding.md R105). -/
def Direct.wf : Direct → Bool
  | .da _ => true
  | .idx x _ => indexReg x

/-- The check on a memory operand (30_encoding.md R103, R105). -/
def Mem.wf : Mem → Bool
  | .ir p => pointerReg p
  | .dir d => d.wf

/-- The check on a register or memory operand whose register must satisfy `reg`. -/
def Opd.wf (reg : Reg → Bool) : Opd → Bool
  | .reg r => reg r
  | .mem m => m.wf

/-- The check on a source operand whose register must satisfy `reg`. -/
def Src.wf {n : Nat} (reg : Reg → Bool) : Src n → Bool
  | .imm _ => true
  | .reg r => reg r
  | .mem m => m.wf

/-- Any register field names a byte register or a word register (10_state.md R21, R22). -/
def anyReg (_ : Reg) : Bool := true

/-- A left shift count: 0 to `w` (43_rotate_shift.md R200). -/
def leftCount (w n : Nat) : Bool := decide (n ≤ w)

/-- A right shift count: 1 to `w` (43_rotate_shift.md R200). -/
def rightCount (w n : Nat) : Bool := decide (1 ≤ n) && decide (n ≤ w)

/-- The term is an instruction of the machine (30_encoding.md R130, R132). -/
def Instr.wf : Instr → Bool
  | .addb _ src | .subb _ src | .orb _ src | .andb _ src | .xorb _ src | .cpb _ src | .ldb _ src => src.wf anyReg
  | .add _ src | .sub _ src | .or _ src | .and _ src | .xor _ src | .cp _ src | .ld _ src => src.wf anyReg
  | .addl d src | .subl d src | .cpl d src | .ldl d src => longReg d && src.wf longReg
  | .mult d src | .div d src => longReg d && src.wf anyReg
  | .multl d src | .divl d src => quadReg d && src.wf longReg
  | .exb _ src | .ex _ src => src.wf anyReg
  | .comb dst | .com dst | .negb dst | .neg dst | .testb dst | .test dst | .tsetb dst | .tset dst
  | .clrb dst | .clr dst => dst.wf anyReg
  | .testl dst => dst.wf longReg
  | .cpbImm dst _ | .ldbImm dst _ => dst.wf
  | .cpImm dst _ | .ldImm dst _ => dst.wf
  | .ldctlbRead _ | .ldctlbWrite _ | .setflg _ | .resflg _ | .comflg _ | .nop => true
  | .pushImm p _ => pointerReg p
  | .push p src => pointerReg p && src.wf anyReg
  | .pushl p src => pointerReg p && src.wf longReg
  | .pop dst p => pointerReg p && dst.wf anyReg
  | .popl dst p => pointerReg p && dst.wf longReg
  | .ldmLoad _ src _ => src.wf
  | .ldmStore dst _ _ => dst.wf
  | .ldbStore dst _ | .ldStore dst _ => dst.wf
  | .ldlStore dst s => dst.wf && longReg s
  | .jp _ dst => dst.wf
  | .call dst => dst.wf
  | .ret _ => true
  | .resb dst _ | .setb dst _ | .bitb dst _ => dst.wf anyReg
  | .res dst _ | .set dst _ | .bit dst _ => dst.wf anyReg
  | .resbDyn _ _ | .resDyn _ _ | .setbDyn _ _ | .setDyn _ _ | .bitbDyn _ _ | .bitDyn _ _ => true
  | .incb dst _ | .inc dst _ | .decb dst _ | .dec dst _ => dst.wf anyReg
  | .tccb _ _ | .tcc _ _ => true
  | .ldrbLoad _ _ | .ldrLoad _ _ | .ldrbStore _ _ | .ldrStore _ _ => true
  | .ldrlLoad d _ => longReg d
  | .ldrlStore _ s => longReg s
  | .ldbBA _ p _ | .ldBA _ p _ => pointerReg p
  | .ldbStoreBA p _ _ | .ldStoreBA p _ _ => pointerReg p
  | .ldlBA d p _ => longReg d && pointerReg p
  | .ldlStoreBA p _ s => pointerReg p && longReg s
  | .ldbBX _ p x | .ldBX _ p x => pointerReg p && indexReg x
  | .ldbStoreBX p x _ | .ldStoreBX p x _ => pointerReg p && indexReg x
  | .ldlBX d p x => longReg d && pointerReg p && indexReg x
  | .ldlStoreBX p x s => pointerReg p && indexReg x && longReg s
  | .lda d src => longReg d && src.wf
  | .ldaBA d p _ => longReg d && pointerReg p
  | .ldaBX d p x => longReg d && pointerReg p && indexReg x
  | .ldar d _ => longReg d
  | .inbInd _ p | .inInd _ p => indexReg p
  | .outbInd p _ | .outInd p _ => indexReg p
  | .in_ _ _ | .inb _ _ | .sin _ _ | .sinb _ _ => true
  | .out _ _ | .outb _ _ | .sout _ _ | .soutb _ _ => true
  | .ldps src => src.wf
  | .halt | .iret | .mset | .mres | .mbit | .mreq _ | .di _ _ | .ei _ _ => true
  | .ldctlRead _ _ | .ldctlWrite _ _ | .sc _ => true
  | .dab _ | .extsb _ => true
  | .exts d => longReg d
  | .extsl d => quadReg d
  | .adcb _ _ | .adc _ _ | .sbcb _ _ | .sbc _ _ | .rldb _ _ | .rrdb _ _ | .ldk _ _ => true
  | .rlb _ _ | .rl _ _ | .rrb _ _ | .rr _ _ | .rlcb _ _ | .rlc _ _ | .rrcb _ _ | .rrc _ _ => true
  | .sllb _ n | .slab _ n => leftCount 8 n
  | .sll _ n | .sla _ n => leftCount 16 n
  | .slll d n | .slal d n => longReg d && leftCount 32 n
  | .srlb _ n | .srab _ n => rightCount 8 n
  | .srl _ n | .sra _ n => rightCount 16 n
  | .srll d n | .sral d n => longReg d && rightCount 32 n
  | .sdlb _ _ | .sdl _ _ | .sdab _ _ | .sda _ _ => true
  | .sdll d _ | .sdal d _ => longReg d
  | .trib d s _ | .trirb d s _ | .trdb d s _ | .trdrb d s _
  | .trtib d s _ | .trtirb d s _ | .trtdb d s _ | .trtdrb d s _ => pointerReg d && pointerReg s
  | .cpib _ s _ _ | .cpi _ s _ _ | .cpirb _ s _ _ | .cpir _ s _ _
  | .cpdb _ s _ _ | .cpd _ s _ _ | .cpdrb _ s _ _ | .cpdr _ s _ _ => pointerReg s
  | .cpsib d s _ _ | .cpsi d s _ _ | .cpsirb d s _ _ | .cpsir d s _ _
  | .cpsdb d s _ _ | .cpsd d s _ _ | .cpsdrb d s _ _ | .cpsdr d s _ _ => pointerReg d && pointerReg s
  | .ldib d s _ | .ldi d s _ | .ldirb d s _ | .ldir d s _
  | .lddb d s _ | .ldd d s _ | .lddrb d s _ | .lddr d s _ => pointerReg d && pointerReg s
  | .ini d s _ | .inib d s _ | .sini d s _ | .sinib d s _
  | .inir d s _ | .inirb d s _ | .sinir d s _ | .sinirb d s _
  | .ind d s _ | .indb d s _ | .sind d s _ | .sindb d s _
  | .indr d s _ | .indrb d s _ | .sindr d s _ | .sindrb d s _ => pointerReg d && indexReg s
  | .outi d s _ | .outib d s _ | .souti d s _ | .soutib d s _
  | .otir d s _ | .otirb d s _ | .sotir d s _ | .sotirb d s _
  | .outd d s _ | .outdb d s _ | .soutd d s _ | .soutdb d s _
  | .otdr d s _ | .otdrb d s _ | .sotdr d s _ | .sotdrb d s _ => indexReg d && pointerReg s
  | .ldbShort _ _ | .calr _ | .jr _ _ | .dbjnz _ _ | .djnz _ _ => true
  | .epu0E _ _ | .epu0F _ _ | .epu4E _ _ | .epu4F _ _ | .epu8E _ _ | .epu8F _ _ => true

end Sys2Proof
end

