-- ==== Sys2Proof/Decode.lean ====
section
/-! DEFINITION. The decoder (30_encoding.md R133): total on any words, rejecting by name; and after it
the encoder, written from the same tables (R92 to R95, R110 to R122, R131). -/

namespace Sys2Proof

/-- Why a pattern is reserved (30_encoding.md R130). -/
inductive Reserved where
  /-- An opcode byte or sub-operation no row has (R130). -/
  | opcode
  /-- A register field, bit number or shift count outside its range (R132, 43_rotate_shift.md R200). -/
  | field
  /-- A nonzero bit where the second operation word is shown with 0 (R130). -/
  | secondWord
  /-- A long-offset address word with nonzero bits 7:0 (R94). -/
  | addressWord
  /-- A byte immediate word whose two halves differ (R95). -/
  | byteImmediate
deriving DecidableEq, Repr

/-- Why the decoder gives no instruction. -/
inductive DecodeError where
  /-- The instruction needs a word that is not there. -/
  | truncated
  /-- The pattern is no instruction (30_encoding.md R130). -/
  | reserved (why : Reserved)
deriving DecidableEq, Repr

/-- A decoded part and the words that follow it. -/
abbrev Dec (α : Type) := Except DecodeError (α × List Word)

/-- Decodes one part, then the next from the words that remain. -/
def Dec.andThen {α β : Type} (m : Dec α) (f : α → List Word → Dec β) : Dec β :=
  match m with
  | .error e => .error e
  | .ok (a, ws) => f a ws

/-- Applies `f` to the decoded part. -/
def Dec.map {α β : Type} (m : Dec α) (f : α → β) : Dec β :=
  Dec.andThen m fun a ws => .ok (f a, ws)

/-- A reserved pattern. -/
def Dec.reserved {α : Type} (why : Reserved) : Dec α := .error (.reserved why)

/-- The next word, taken as it is (immediate, displacement, port, extended word). -/
def takeWord : List Word → Dec Word
  | [] => .error .truncated
  | w :: ws => .ok (w, ws)

/-- The condition code of a 4-bit field (44_program_control.md R221). -/
def CC.ofBits (b : BitVec 4) : CC :=
  match b.toNat with
  | 0 => .never
  | 1 => .lt
  | 2 => .le
  | 3 => .ule
  | 4 => .ov
  | 5 => .mi
  | 6 => .eq
  | 7 => .ult
  | 8 => .always
  | 9 => .ge
  | 10 => .gt
  | 11 => .ugt
  | 12 => .nov
  | 13 => .pl
  | 14 => .ne
  | _ => .uge

/-- The 4-bit code of a condition (44_program_control.md R221). -/
def CC.bits : CC → BitVec 4
  | .never => 0
  | .lt => 1
  | .le => 2
  | .ule => 3
  | .ov => 4
  | .mi => 5
  | .eq => 6
  | .ult => 7
  | .always => 8
  | .ge => 9
  | .gt => 10
  | .ugt => 11
  | .nov => 12
  | .pl => 13
  | .ne => 14
  | .uge => 15

/-- The control register of a 3-bit selector of LDCTL; 0 and 1 are reserved (10_state.md R38). -/
def Ctl.ofBits (b : BitVec 3) : Option Ctl :=
  match b.toNat with
  | 2 => some .fcw
  | 3 => some .refresh
  | 4 => some .psapseg
  | 5 => some .psapoff
  | 6 => some .nspseg
  | 7 => some .nspoff
  | _ => none

/-- The 3-bit selector of a control register (10_state.md R38). -/
def Ctl.bits : Ctl → BitVec 3
  | .fcw => 2
  | .refresh => 3
  | .psapseg => 4
  | .psapoff => 5
  | .nspseg => 6
  | .nspoff => 7

/-- An address word, and the second one of the long form (30_encoding.md R94). -/
def takeAddr : List Word → Dec AddrForm
  | [] => .error .truncated
  | w :: ws =>
    if w.getLsbD 15 then
      if w.extractLsb' 0 8 = 0 then
        match ws with
        | [] => .error .truncated
        | o :: ws => .ok (.long (w.extractLsb' 8 7) o, ws)
      else Dec.reserved .addressWord
    else .ok (.short (w.extractLsb' 8 7) (w.extractLsb' 0 8), ws)

/-- DA when the field is 0, else X (30_encoding.md R100). -/
def takeDirect (f : Reg) (ws : List Word) : Dec Direct :=
  (takeAddr ws).map fun a => if f = 0 then .da a else .idx f a

/-- The byte immediate of a following word: the same in both halves (30_encoding.md R95). -/
def takeImm8 : List Word → Dec Byte
  | [] => .error .truncated
  | w :: ws =>
    if w.extractLsb' 8 8 = w.extractLsb' 0 8 then .ok (w.extractLsb' 0 8, ws)
    else Dec.reserved .byteImmediate

/-- The 32-bit immediate, more significant word first (30_encoding.md R95). -/
def takeImm32 : List Word → Dec Long
  | hi :: lo :: ws => .ok (hi ++ lo, ws)
  | _ => .error .truncated

/-- The immediate of an operation of width `w` (30_encoding.md R95). -/
def takeImm (w : Width) (ws : List Word) : Dec (BitVec w.bits) :=
  match w with
  | .byte => takeImm8 ws
  | .word => takeWord ws
  | .long => takeImm32 ws

/-- A memory operand: IR in mode 00, DA or X in mode 01 (30_encoding.md R91, R100). -/
def takeMem (mode : Nat) (f : Reg) (ws : List Word) : Dec Mem :=
  match mode with
  | 0 => .ok (.ir f, ws)
  | 1 => (takeDirect f ws).map .dir
  | _ => Dec.reserved .opcode

/-- A register or memory operand: mode 10 is R (30_encoding.md R91). -/
def takeOpd (mode : Nat) (f : Reg) (ws : List Word) : Dec Opd :=
  match mode with
  | 2 => .ok (.reg f, ws)
  | _ => (takeMem mode f ws).map .mem

/-- A source operand: mode 00 with field 0 is IM (30_encoding.md R100, R110). -/
def takeSrc (w : Width) (mode : Nat) (f : Reg) (ws : List Word) : Dec (Src w.bits) :=
  match mode with
  | 2 => .ok (.reg f, ws)
  | 0 => if f = 0 then (takeImm w ws).map .imm else .ok (.mem (.ir f), ws)
  | _ => (takeMem mode f ws).map .mem

/-- A second operation word `0 a b c` (30_encoding.md R92, F-BLK). -/
def takeNibbles (ws : List Word) (f : Reg → BitVec 4 → BitVec 4 → Option Instr) : Dec Instr :=
  Dec.andThen (takeWord ws) fun w ws =>
    if w.extractLsb' 12 4 = 0 then
      match f (w.extractLsb' 8 4) (w.extractLsb' 4 4) (w.extractLsb' 0 4) with
      | some i => .ok (i, ws)
      | none => Dec.reserved .secondWord
    else Dec.reserved .secondWord

/-- A second operation word `0 a 0 0` (30_encoding.md R92: F-BITD, F-BX, dynamic shifts). -/
def takeOneReg (ws : List Word) (f : Reg → Instr) : Dec Instr :=
  takeNibbles ws fun a b c => if b = 0 ∧ c = 0 then some (f a) else none

/-- A block second word `0 r x 8` (single step) or `0 r x 0` (repeating) (30_encoding.md R118, R121). -/
def takeBlock (ws : List Word) (single repeating : Reg → Reg → Instr) : Dec Instr :=
  takeNibbles ws fun r x k =>
    if k = 8 then some (single x r) else if k = 0 then some (repeating x r) else none

/-- A compare second word `0 r d cc` (30_encoding.md R121). -/
def takeCompare (ws : List Word) (f : Reg → Reg → CC → Instr) : Dec Instr :=
  takeNibbles ws fun r d c => some (f d r (CC.ofBits c))

/-- A translate second word `0 r s k` with `k` fixed (30_encoding.md R120). -/
def takeTranslate (ws : List Word) (k : BitVec 4) (f : Reg → Reg → Instr) : Dec Instr :=
  takeNibbles ws fun r s c => if c = k then some (f s r) else none

/-- The second word of LDM `0 d 0 m`, before the address (30_encoding.md R113, R133). -/
def takeMultiple (mode : Nat) (f : Reg) (ws : List Word) (mk : Mem → Reg → BitVec 4 → Instr) : Dec Instr :=
  Dec.andThen (takeWord ws) fun w ws =>
    if w.extractLsb' 12 4 = 0 ∧ w.extractLsb' 4 4 = 0 then
      (takeMem mode f ws).map fun m => mk m (w.extractLsb' 8 4) (w.extractLsb' 0 4)
    else Dec.reserved .secondWord

/-- The signed count word of a static shift: positive is left, negative right (30_encoding.md R95). -/
def takeShift (ws : List Word) (left right : Nat → Instr) : Dec Instr :=
  (takeWord ws).map fun w => if w.getLsbD 15 then right (-w).toNat else left w.toNat

/-- The count word of a static byte shift: bits 15:8 are 0 (30_encoding.md R95). -/
def takeShiftByte (ws : List Word) (left right : Nat → Instr) : Dec Instr :=
  Dec.andThen (takeWord ws) fun w ws =>
    if w.extractLsb' 8 8 = 0 then
      let k := w.extractLsb' 0 8
      .ok (if k.getLsbD 7 then right (-k).toNat else left k.toNat, ws)
    else Dec.reserved .field

/-- Opcode bytes 0C, 4C, 8C: the byte one-operand group (30_encoding.md R111). -/
def parseOneByte (mode : Nat) (f1 f2 : BitVec 4) (ws : List Word) : Dec Instr :=
  match f2.toNat with
  | 0 => (takeOpd mode f1 ws).map .comb
  | 1 =>
    if mode = 2 then .ok (.ldctlbRead f1, ws)
    else Dec.andThen (takeMem mode f1 ws) fun m ws => (takeImm8 ws).map fun v => .cpbImm m v
  | 2 => (takeOpd mode f1 ws).map .negb
  | 4 => (takeOpd mode f1 ws).map .testb
  | 5 => Dec.andThen (takeMem mode f1 ws) fun m ws => (takeImm8 ws).map fun v => .ldbImm m v
  | 6 => (takeOpd mode f1 ws).map .tsetb
  | 8 => (takeOpd mode f1 ws).map .clrb
  | 9 => if mode = 2 then .ok (.ldctlbWrite f1, ws) else Dec.reserved .opcode
  | _ => Dec.reserved .opcode

/-- Opcode bytes 0D, 4D, 8D: the word one-operand group (30_encoding.md R111). -/
def parseOneWord (mode : Nat) (f1 f2 : BitVec 4) (ws : List Word) : Dec Instr :=
  match f2.toNat with
  | 0 => (takeOpd mode f1 ws).map .com
  | 1 =>
    if mode = 2 then .ok (.setflg f1, ws)
    else Dec.andThen (takeMem mode f1 ws) fun m ws => (takeWord ws).map fun v => .cpImm m v
  | 2 => (takeOpd mode f1 ws).map .neg
  | 3 => if mode = 2 then .ok (.resflg f1, ws) else Dec.reserved .opcode
  | 4 => (takeOpd mode f1 ws).map .test
  | 5 =>
    if mode = 2 then .ok (.comflg f1, ws)
    else Dec.andThen (takeMem mode f1 ws) fun m ws => (takeWord ws).map fun v => .ldImm m v
  | 6 => (takeOpd mode f1 ws).map .tset
  | 7 => if mode = 2 ∧ f1 = 0 then .ok (.nop, ws) else Dec.reserved .opcode
  | 8 => (takeOpd mode f1 ws).map .clr
  | 9 => if mode = 0 then (takeWord ws).map fun v => .pushImm f1 v else Dec.reserved .opcode
  | _ => Dec.reserved .opcode

/-- Opcode bytes 1C, 5C, 9C: TESTL and LDM (30_encoding.md R113). -/
def parseMultiple (mode : Nat) (f1 f2 : BitVec 4) (ws : List Word) : Dec Instr :=
  match f2.toNat with
  | 1 =>
    if mode = 2 then Dec.reserved .opcode
    else takeMultiple mode f1 ws fun m d n => .ldmLoad d m n
  | 8 => (takeOpd mode f1 ws).map .testl
  | 9 =>
    if mode = 2 then Dec.reserved .opcode
    else takeMultiple mode f1 ws fun m s n => .ldmStore m s n
  | _ => Dec.reserved .opcode

/-- A byte bit instruction: the static form, or in mode 00 with field 0 the dynamic one; a bit number
above 7 is reserved (30_encoding.md R114, R95). -/
def parseBitByte (mode : Nat) (f1 f2 : BitVec 4) (ws : List Word) (static : Opd → BitVec 3 → Instr)
    (dynamic : Reg → Reg → Instr) : Dec Instr :=
  if mode = 0 ∧ f1 = 0 then takeOneReg ws fun d => dynamic d f2
  else if f2.getLsbD 3 then Dec.reserved .field
  else (takeOpd mode f1 ws).map fun o => static o (f2.extractLsb' 0 3)

/-- A word bit instruction (30_encoding.md R114). -/
def parseBitWord (mode : Nat) (f1 f2 : BitVec 4) (ws : List Word) (static : Opd → BitVec 4 → Instr)
    (dynamic : Reg → Reg → Instr) : Dec Instr :=
  if mode = 0 ∧ f1 = 0 then takeOneReg ws fun d => dynamic d f2
  else (takeOpd mode f1 ws).map fun o => static o f2

/-- Opcode bytes 2E, 2F, 6E, 6F: stores; AE, AF: TCCB, TCC (30_encoding.md R114). -/
def parseStore (mode : Nat) (f1 f2 : BitVec 4) (ws : List Word) (store : Mem → Reg → Instr)
    (tcc : CC → Reg → Instr) : Dec Instr :=
  if mode = 2 then .ok (tcc (CC.ofBits f2) f1, ws)
  else (takeMem mode f1 ws).map fun m => store m f2

/-- RA when the base field is 0, else BA; both take a displacement word (30_encoding.md R100, R115). -/
def parseDisp (f1 f2 : BitVec 4) (ws : List Word) (relative : Reg → Word → Instr)
    (based : Reg → Reg → Word → Instr) : Dec Instr :=
  (takeWord ws).map fun disp => if f1 = 0 then relative f2 disp else based f1 f2 disp

/-- Opcode byte 3A: byte I/O (30_encoding.md R118). -/
def parseIoByte (f1 f2 : BitVec 4) (ws : List Word) : Dec Instr :=
  match f2.toNat with
  | 0 => takeBlock ws (fun d r => .inib d f1 r) (fun d r => .inirb d f1 r)
  | 1 => takeBlock ws (fun d r => .sinib d f1 r) (fun d r => .sinirb d f1 r)
  | 2 => takeBlock ws (fun d r => .outib d f1 r) (fun d r => .otirb d f1 r)
  | 3 => takeBlock ws (fun d r => .soutib d f1 r) (fun d r => .sotirb d f1 r)
  | 4 => (takeWord ws).map fun port => .inb f1 port
  | 5 => (takeWord ws).map fun port => .sinb f1 port
  | 6 => (takeWord ws).map fun port => .outb port f1
  | 7 => (takeWord ws).map fun port => .soutb port f1
  | 8 => takeBlock ws (fun d r => .indb d f1 r) (fun d r => .indrb d f1 r)
  | 9 => takeBlock ws (fun d r => .sindb d f1 r) (fun d r => .sindrb d f1 r)
  | 10 => takeBlock ws (fun d r => .outdb d f1 r) (fun d r => .otdrb d f1 r)
  | 11 => takeBlock ws (fun d r => .soutdb d f1 r) (fun d r => .sotdrb d f1 r)
  | _ => Dec.reserved .opcode

/-- Opcode byte 3B: word I/O (30_encoding.md R118). -/
def parseIoWord (f1 f2 : BitVec 4) (ws : List Word) : Dec Instr :=
  match f2.toNat with
  | 0 => takeBlock ws (fun d r => .ini d f1 r) (fun d r => .inir d f1 r)
  | 1 => takeBlock ws (fun d r => .sini d f1 r) (fun d r => .sinir d f1 r)
  | 2 => takeBlock ws (fun d r => .outi d f1 r) (fun d r => .otir d f1 r)
  | 3 => takeBlock ws (fun d r => .souti d f1 r) (fun d r => .sotir d f1 r)
  | 4 => (takeWord ws).map fun port => .in_ f1 port
  | 5 => (takeWord ws).map fun port => .sin f1 port
  | 6 => (takeWord ws).map fun port => .out port f1
  | 7 => (takeWord ws).map fun port => .sout port f1
  | 8 => takeBlock ws (fun d r => .ind d f1 r) (fun d r => .indr d f1 r)
  | 9 => takeBlock ws (fun d r => .sind d f1 r) (fun d r => .sindr d f1 r)
  | 10 => takeBlock ws (fun d r => .outd d f1 r) (fun d r => .otdr d f1 r)
  | 11 => takeBlock ws (fun d r => .soutd d f1 r) (fun d r => .sotdr d f1 r)
  | _ => Dec.reserved .opcode

/-- Opcode bytes 30 to 3F, by their low digit (30_encoding.md R115). -/
def parse3x (op : Nat) (f1 f2 : BitVec 4) (ws : List Word) : Dec Instr :=
  match op with
  | 0x0 => parseDisp f1 f2 ws (fun d a => .ldrbLoad d a) (fun p d a => .ldbBA d p a)
  | 0x1 => parseDisp f1 f2 ws (fun d a => .ldrLoad d a) (fun p d a => .ldBA d p a)
  | 0x2 => parseDisp f1 f2 ws (fun s a => .ldrbStore a s) (fun p s a => .ldbStoreBA p a s)
  | 0x3 => parseDisp f1 f2 ws (fun s a => .ldrStore a s) (fun p s a => .ldStoreBA p a s)
  | 0x4 => parseDisp f1 f2 ws (fun d a => .ldar d a) (fun p d a => .ldaBA d p a)
  | 0x5 => parseDisp f1 f2 ws (fun d a => .ldrlLoad d a) (fun p d a => .ldlBA d p a)
  | 0x7 => parseDisp f1 f2 ws (fun s a => .ldrlStore a s) (fun p s a => .ldlStoreBA p a s)
  | 0x9 => if f2 = 0 then .ok (.ldps (.ir f1), ws) else Dec.reserved .opcode
  | 0xA => parseIoByte f1 f2 ws
  | 0xB => parseIoWord f1 f2 ws
  | 0xC => .ok (.inbInd f2 f1, ws)
  | 0xD => .ok (.inInd f2 f1, ws)
  | 0xE => .ok (.outbInd f1 f2, ws)
  | 0xF => .ok (.outInd f1 f2, ws)
  | _ => Dec.reserved .opcode

/-- Opcode byte 7B: IRET and the multi-micro group (30_encoding.md R116). -/
def parse7B (f1 f2 : BitVec 4) (ws : List Word) : Dec Instr :=
  match f2.toNat with
  | 0x0 => if f1 = 0 then .ok (.iret, ws) else Dec.reserved .opcode
  | 0x8 => if f1 = 0 then .ok (.mset, ws) else Dec.reserved .opcode
  | 0x9 => if f1 = 0 then .ok (.mres, ws) else Dec.reserved .opcode
  | 0xA => if f1 = 0 then .ok (.mbit, ws) else Dec.reserved .opcode
  | 0xD => .ok (.mreq f1, ws)
  | _ => Dec.reserved .opcode

/-- Opcode byte 7C: DI and EI; a 0 bit names the interrupt (30_encoding.md R116, R95). -/
def parse7C (f1 f2 : BitVec 4) (ws : List Word) : Dec Instr :=
  if f1 = 0 ∧ f2.getLsbD 3 = false then
    if f2.getLsbD 2 then .ok (.ei (!f2.getLsbD 1) (!f2.getLsbD 0), ws)
    else .ok (.di (!f2.getLsbD 1) (!f2.getLsbD 0), ws)
  else Dec.reserved .opcode

/-- Opcode byte 7D: LDCTL; bit 3 of the low digit is the direction (30_encoding.md R116). -/
def parse7D (f1 f2 : BitVec 4) (ws : List Word) : Dec Instr :=
  match Ctl.ofBits (f2.extractLsb' 0 3) with
  | none => Dec.reserved .field
  | some c => .ok (if f2.getLsbD 3 then .ldctlWrite c f1 else .ldctlRead f1 c, ws)

/-- Opcode bytes 70 to 7F, by their low digit (30_encoding.md R116). -/
def parse7x (op : Nat) (f1 f2 : BitVec 4) (ws : List Word) : Dec Instr :=
  match op with
  | 0x0 => takeOneReg ws fun x => .ldbBX f2 f1 x
  | 0x1 => takeOneReg ws fun x => .ldBX f2 f1 x
  | 0x2 => takeOneReg ws fun x => .ldbStoreBX f1 x f2
  | 0x3 => takeOneReg ws fun x => .ldStoreBX f1 x f2
  | 0x4 => takeOneReg ws fun x => .ldaBX f2 f1 x
  | 0x5 => takeOneReg ws fun x => .ldlBX f2 f1 x
  | 0x6 => (takeDirect f1 ws).map fun a => .lda f2 a
  | 0x7 => takeOneReg ws fun x => .ldlStoreBX f1 x f2
  | 0x9 => if f2 = 0 then (takeDirect f1 ws).map fun a => .ldps (.dir a) else Dec.reserved .opcode
  | 0xA => if f1 = 0 ∧ f2 = 0 then .ok (.halt, ws) else Dec.reserved .opcode
  | 0xB => parse7B f1 f2 ws
  | 0xC => parse7C f1 f2 ws
  | 0xD => parse7D f1 f2 ws
  | 0xF => .ok (.sc (f1 ++ f2), ws)
  | _ => Dec.reserved .opcode

/-- Opcode byte B2: byte shifts and rotates (30_encoding.md R119). -/
def parseShiftByte (f1 f2 : BitVec 4) (ws : List Word) : Dec Instr :=
  match f2.toNat with
  | 0x0 => .ok (.rlb f1 false, ws)
  | 0x1 => takeShiftByte ws (fun n => .sllb f1 n) (fun n => .srlb f1 n)
  | 0x2 => .ok (.rlb f1 true, ws)
  | 0x3 => takeOneReg ws fun s => .sdlb f1 s
  | 0x4 => .ok (.rrb f1 false, ws)
  | 0x6 => .ok (.rrb f1 true, ws)
  | 0x8 => .ok (.rlcb f1 false, ws)
  | 0x9 => takeShiftByte ws (fun n => .slab f1 n) (fun n => .srab f1 n)
  | 0xA => .ok (.rlcb f1 true, ws)
  | 0xB => takeOneReg ws fun s => .sdab f1 s
  | 0xC => .ok (.rrcb f1 false, ws)
  | 0xE => .ok (.rrcb f1 true, ws)
  | _ => Dec.reserved .opcode

/-- Opcode byte B3: word and long shifts and rotates (30_encoding.md R119). -/
def parseShiftWord (f1 f2 : BitVec 4) (ws : List Word) : Dec Instr :=
  match f2.toNat with
  | 0x0 => .ok (.rl f1 false, ws)
  | 0x1 => takeShift ws (fun n => .sll f1 n) (fun n => .srl f1 n)
  | 0x2 => .ok (.rl f1 true, ws)
  | 0x3 => takeOneReg ws fun s => .sdl f1 s
  | 0x4 => .ok (.rr f1 false, ws)
  | 0x5 => takeShift ws (fun n => .slll f1 n) (fun n => .srll f1 n)
  | 0x6 => .ok (.rr f1 true, ws)
  | 0x7 => takeOneReg ws fun s => .sdll f1 s
  | 0x8 => .ok (.rlc f1 false, ws)
  | 0x9 => takeShift ws (fun n => .sla f1 n) (fun n => .sra f1 n)
  | 0xA => .ok (.rlc f1 true, ws)
  | 0xB => takeOneReg ws fun s => .sda f1 s
  | 0xC => .ok (.rrc f1 false, ws)
  | 0xD => takeShift ws (fun n => .slal f1 n) (fun n => .sral f1 n)
  | 0xE => .ok (.rrc f1 true, ws)
  | _ => takeOneReg ws fun s => .sdal f1 s

/-- Opcode byte B8: translate (30_encoding.md R120). -/
def parseTranslate (f1 f2 : BitVec 4) (ws : List Word) : Dec Instr :=
  match f2.toNat with
  | 0x0 => takeTranslate ws 0x0 fun s r => .trib f1 s r
  | 0x2 => takeTranslate ws 0x0 fun s r => .trtib f1 s r
  | 0x4 => takeTranslate ws 0x0 fun s r => .trirb f1 s r
  | 0x6 => takeTranslate ws 0xE fun s r => .trtirb f1 s r
  | 0x8 => takeTranslate ws 0x0 fun s r => .trdb f1 s r
  | 0xA => takeTranslate ws 0x0 fun s r => .trtdb f1 s r
  | 0xC => takeTranslate ws 0x0 fun s r => .trdrb f1 s r
  | 0xE => takeTranslate ws 0xE fun s r => .trtdrb f1 s r
  | _ => Dec.reserved .opcode

/-- Opcode byte BA: byte block compare and move (30_encoding.md R121). -/
def parseBlockByte (f1 f2 : BitVec 4) (ws : List Word) : Dec Instr :=
  match f2.toNat with
  | 0x0 => takeCompare ws fun d r c => .cpib d f1 r c
  | 0x1 => takeBlock ws (fun d r => .ldib d f1 r) (fun d r => .ldirb d f1 r)
  | 0x2 => takeCompare ws fun d r c => .cpsib d f1 r c
  | 0x4 => takeCompare ws fun d r c => .cpirb d f1 r c
  | 0x6 => takeCompare ws fun d r c => .cpsirb d f1 r c
  | 0x8 => takeCompare ws fun d r c => .cpdb d f1 r c
  | 0x9 => takeBlock ws (fun d r => .lddb d f1 r) (fun d r => .lddrb d f1 r)
  | 0xA => takeCompare ws fun d r c => .cpsdb d f1 r c
  | 0xC => takeCompare ws fun d r c => .cpdrb d f1 r c
  | 0xE => takeCompare ws fun d r c => .cpsdrb d f1 r c
  | _ => Dec.reserved .opcode

/-- Opcode byte BB: word block compare and move (30_encoding.md R121). -/
def parseBlockWord (f1 f2 : BitVec 4) (ws : List Word) : Dec Instr :=
  match f2.toNat with
  | 0x0 => takeCompare ws fun d r c => .cpi d f1 r c
  | 0x1 => takeBlock ws (fun d r => .ldi d f1 r) (fun d r => .ldir d f1 r)
  | 0x2 => takeCompare ws fun d r c => .cpsi d f1 r c
  | 0x4 => takeCompare ws fun d r c => .cpir d f1 r c
  | 0x6 => takeCompare ws fun d r c => .cpsir d f1 r c
  | 0x8 => takeCompare ws fun d r c => .cpd d f1 r c
  | 0x9 => takeBlock ws (fun d r => .ldd d f1 r) (fun d r => .lddr d f1 r)
  | 0xA => takeCompare ws fun d r c => .cpsd d f1 r c
  | 0xC => takeCompare ws fun d r c => .cpdr d f1 r c
  | 0xE => takeCompare ws fun d r c => .cpsdr d f1 r c
  | _ => Dec.reserved .opcode

/-- Opcode byte B1: sign extension (30_encoding.md R117). -/
def parseExts (f1 f2 : BitVec 4) (ws : List Word) : Dec Instr :=
  match f2.toNat with
  | 0x0 => .ok (.extsb f1, ws)
  | 0x7 => .ok (.extsl f1, ws)
  | 0xA => .ok (.exts f1, ws)
  | _ => Dec.reserved .opcode

/-- Opcode bytes B0 to BF, by their low digit (30_encoding.md R117). -/
def parseBx (op : Nat) (f1 f2 : BitVec 4) (ws : List Word) : Dec Instr :=
  match op with
  | 0x0 => if f2 = 0 then .ok (.dab f1, ws) else Dec.reserved .opcode
  | 0x1 => parseExts f1 f2 ws
  | 0x2 => parseShiftByte f1 f2 ws
  | 0x3 => parseShiftWord f1 f2 ws
  | 0x4 => .ok (.adcb f2 f1, ws)
  | 0x5 => .ok (.adc f2 f1, ws)
  | 0x6 => .ok (.sbcb f2 f1, ws)
  | 0x7 => .ok (.sbc f2 f1, ws)
  | 0x8 => parseTranslate f1 f2 ws
  | 0xA => parseBlockByte f1 f2 ws
  | 0xB => parseBlockWord f1 f2 ws
  | 0xC => .ok (.rrdb f2 f1, ws)
  | 0xD => .ok (.ldk f1 f2, ws)
  | 0xE => .ok (.rldb f2 f1, ws)
  | _ => Dec.reserved .opcode

/-- An extended-instruction opcode and its second word, not interpreted (30_encoding.md R131). -/
def parseEpu (mode : Nat) (f1 f2 : BitVec 4) (ws : List Word) (m0 m1 m2 : Byte → Word → Instr) : Dec Instr :=
  (takeWord ws).map fun w2 =>
    match mode with
    | 0 => m0 (f1 ++ f2) w2
    | 1 => m1 (f1 ++ f2) w2
    | _ => m2 (f1 ++ f2) w2

/-- Modes 00, 01 and 10 (30_encoding.md R110 to R117): `op` is bits 13:8 of the first word. -/
def parseOp (mode op : Nat) (f1 f2 : BitVec 4) (ws : List Word) : Dec Instr :=
  match op with
  | 0x00 => (takeSrc .byte mode f1 ws).map fun src => .addb f2 src
  | 0x01 => (takeSrc .word mode f1 ws).map fun src => .add f2 src
  | 0x02 => (takeSrc .byte mode f1 ws).map fun src => .subb f2 src
  | 0x03 => (takeSrc .word mode f1 ws).map fun src => .sub f2 src
  | 0x04 => (takeSrc .byte mode f1 ws).map fun src => .orb f2 src
  | 0x05 => (takeSrc .word mode f1 ws).map fun src => .or f2 src
  | 0x06 => (takeSrc .byte mode f1 ws).map fun src => .andb f2 src
  | 0x07 => (takeSrc .word mode f1 ws).map fun src => .and f2 src
  | 0x08 => (takeSrc .byte mode f1 ws).map fun src => .xorb f2 src
  | 0x09 => (takeSrc .word mode f1 ws).map fun src => .xor f2 src
  | 0x0A => (takeSrc .byte mode f1 ws).map fun src => .cpb f2 src
  | 0x0B => (takeSrc .word mode f1 ws).map fun src => .cp f2 src
  | 0x0C => parseOneByte mode f1 f2 ws
  | 0x0D => parseOneWord mode f1 f2 ws
  | 0x0E => parseEpu mode f1 f2 ws .epu0E .epu4E .epu8E
  | 0x0F => parseEpu mode f1 f2 ws .epu0F .epu4F .epu8F
  | 0x10 => (takeSrc .long mode f1 ws).map fun src => .cpl f2 src
  | 0x11 => (takeOpd mode f2 ws).map fun src => .pushl f1 src
  | 0x12 => (takeSrc .long mode f1 ws).map fun src => .subl f2 src
  | 0x13 => (takeOpd mode f2 ws).map fun src => .push f1 src
  | 0x14 => (takeSrc .long mode f1 ws).map fun src => .ldl f2 src
  | 0x15 => (takeOpd mode f2 ws).map fun dst => .popl dst f1
  | 0x16 => (takeSrc .long mode f1 ws).map fun src => .addl f2 src
  | 0x17 => (takeOpd mode f2 ws).map fun dst => .pop dst f1
  | 0x18 => (takeSrc .long mode f1 ws).map fun src => .multl f2 src
  | 0x19 => (takeSrc .word mode f1 ws).map fun src => .mult f2 src
  | 0x1A => (takeSrc .long mode f1 ws).map fun src => .divl f2 src
  | 0x1B => (takeSrc .word mode f1 ws).map fun src => .div f2 src
  | 0x1C => parseMultiple mode f1 f2 ws
  | 0x1D => (takeMem mode f1 ws).map fun m => .ldlStore m f2
  | 0x1E =>
    if mode = 2 then if f1 = 0 then .ok (.ret (CC.ofBits f2), ws) else Dec.reserved .opcode
    else (takeMem mode f1 ws).map fun m => .jp (CC.ofBits f2) m
  | 0x1F => if f2 = 0 then (takeMem mode f1 ws).map fun m => .call m else Dec.reserved .opcode
  | 0x20 => (takeSrc .byte mode f1 ws).map fun src => .ldb f2 src
  | 0x21 => (takeSrc .word mode f1 ws).map fun src => .ld f2 src
  | 0x22 => parseBitByte mode f1 f2 ws .resb .resbDyn
  | 0x23 => parseBitWord mode f1 f2 ws .res .resDyn
  | 0x24 => parseBitByte mode f1 f2 ws .setb .setbDyn
  | 0x25 => parseBitWord mode f1 f2 ws .set .setDyn
  | 0x26 => parseBitByte mode f1 f2 ws .bitb .bitbDyn
  | 0x27 => parseBitWord mode f1 f2 ws .bit .bitDyn
  | 0x28 => (takeOpd mode f1 ws).map fun dst => .incb dst f2
  | 0x29 => (takeOpd mode f1 ws).map fun dst => .inc dst f2
  | 0x2A => (takeOpd mode f1 ws).map fun dst => .decb dst f2
  | 0x2B => (takeOpd mode f1 ws).map fun dst => .dec dst f2
  | 0x2C => (takeOpd mode f1 ws).map fun src => .exb f2 src
  | 0x2D => (takeOpd mode f1 ws).map fun src => .ex f2 src
  | 0x2E => parseStore mode f1 f2 ws .ldbStore .tccb
  | 0x2F => parseStore mode f1 f2 ws .ldStore .tcc
  | op =>
    match mode with
    | 0 => parse3x (op - 0x30) f1 f2 ws
    | 1 => parse7x (op - 0x30) f1 f2 ws
    | _ => parseBx (op - 0x30) f1 f2 ws

/-- The compact formats of mode 11, by bits 13:12 (30_encoding.md R122). -/
def parseCompact (w : Word) (ws : List Word) : Dec Instr :=
  match (w.extractLsb' 12 2).toNat with
  | 0 => .ok (.ldbShort (w.extractLsb' 8 4) (w.extractLsb' 0 8), ws)
  | 1 => .ok (.calr (w.extractLsb' 0 12), ws)
  | 2 => .ok (.jr (CC.ofBits (w.extractLsb' 8 4)) (w.extractLsb' 0 8), ws)
  | _ =>
    .ok (if w.getLsbD 7 then .djnz (w.extractLsb' 8 4) (w.extractLsb' 0 7)
      else .dbjnz (w.extractLsb' 8 4) (w.extractLsb' 0 7), ws)

/-- The term a list of words stands for, before the checks on its fields (30_encoding.md R133). -/
def parse : List Word → Dec Instr
  | [] => .error .truncated
  | w :: ws =>
    match (w.extractLsb' 14 2).toNat with
    | 3 => parseCompact w ws
    | mode => parseOp mode (w.extractLsb' 8 6).toNat (w.extractLsb' 4 4) (w.extractLsb' 0 4) ws

/-- Second operation words: one for each second word that a first word of the table may ask for
(30_encoding.md R117 to R121). -/
def operationWords : List Word := [0x0000, 0x0100, 0x0120, 0x012E]

/-- The words begin an instruction: with some words after them they are one, their fields within range.
Choosing by the first words does not wait for the rest (30_encoding.md R132, R133 (2)). -/
def begins (ws : List Word) : Bool :=
  operationWords.any fun w =>
    match parse (ws ++ [w, 0, 0]) with
    | .ok (i, _) => i.wf
    | .error _ => false

/-- The decoder on words: a well-formed instruction and the words after it, or why there is none. Where a
word is missing it is waited for only if the words there begin an instruction
(30_encoding.md R130, R132, R133). -/
def decodeWords (ws : List Word) : Dec Instr :=
  match parse ws with
  | .ok (i, rest) => if i.wf then .ok (i, rest) else Dec.reserved .field
  | .error .truncated => if begins ws then .error .truncated else Dec.reserved .field
  | .error e => .error e

/-- Bytes as words: the byte at the lower address is the more significant one (20_memory.md R66). -/
def wordsOfBytes : List Byte → List Word
  | hi :: lo :: bs => (hi ++ lo) :: wordsOfBytes bs
  | _ => []

/-- Words as bytes in memory order (20_memory.md R66). -/
def bytesOfWords : List Word → List Byte
  | [] => []
  | w :: ws => w.extractLsb' 8 8 :: w.extractLsb' 0 8 :: bytesOfWords ws

/-- The decoder on the bytes of memory. -/
def decode (bs : List Byte) : Dec Instr := decodeWords (wordsOfBytes bs)

/-- The instruction words of a number whose bits 15:0 are the first word, 31:16 the second and so on:
four words, the longest instruction (30_encoding.md R93), those above `nbits` zero. -/
def tableWords (nbits w : Nat) : List Word :=
  let v := w % 2 ^ nbits
  [BitVec.ofNat 16 v, BitVec.ofNat 16 (v / 2 ^ 16), BitVec.ofNat 16 (v / 2 ^ 32), BitVec.ofNat 16 (v / 2 ^ 48)]

/-- The instruction the decoder reads from the bits `w`, numbered as spec/opcode_table.json numbers
them, laid out in memory order. -/
def decodeTableWord (nbits w : Nat) : Option Instr :=
  match decode (bytesOfWords (tableWords nbits w)) with
  | .ok (i, _) => some i
  | .error _ => none

/-- A first word of modes 00, 01, 10: mode, six operation bits, two register fields (30_encoding.md R91). -/
def firstOf (mode : BitVec 2) (op : BitVec 6) (f1 f2 : BitVec 4) : Word := mode ++ op ++ f1 ++ f2

/-- A second operation word `0 a b c` (30_encoding.md R92). -/
def secondOf (a b c : BitVec 4) : Word := 0#4 ++ a ++ b ++ c

/-- The words of an address (30_encoding.md R94). -/
def AddrForm.encode : AddrForm → List Word
  | .short g o => [0#1 ++ g ++ o]
  | .long g o => [1#1 ++ g ++ 0#8, o]

/-- The register field of a DA or X operand: 0 or the index register (30_encoding.md R100). -/
def Direct.field : Direct → Reg
  | .da _ => 0
  | .idx x _ => x

/-- The words of a DA or X operand. -/
def Direct.encode : Direct → List Word
  | .da a => a.encode
  | .idx _ a => a.encode

/-- The mode bits of a memory operand (30_encoding.md R91). -/
def Mem.mode : Mem → BitVec 2
  | .ir _ => 0
  | .dir _ => 1

/-- The register field of a memory operand (30_encoding.md R100). -/
def Mem.field : Mem → Reg
  | .ir p => p
  | .dir d => d.field

/-- The words of a memory operand. -/
def Mem.encode : Mem → List Word
  | .ir _ => []
  | .dir d => d.encode

/-- The mode bits of a register or memory operand (30_encoding.md R91). -/
def Opd.mode : Opd → BitVec 2
  | .reg _ => 2
  | .mem m => m.mode

/-- The register field of a register or memory operand. -/
def Opd.field : Opd → Reg
  | .reg r => r
  | .mem m => m.field

/-- The words of a register or memory operand. -/
def Opd.encode : Opd → List Word
  | .reg _ => []
  | .mem m => m.encode

/-- The word of a byte immediate: the byte in both halves (30_encoding.md R95). -/
def imm8Word (v : Byte) : Word := v ++ v

/-- The words of an immediate of width `w` (30_encoding.md R95). -/
def immWords (w : Width) (v : BitVec w.bits) : List Word :=
  match w, v with
  | .byte, v => [imm8Word v]
  | .word, v => [v]
  | .long, v => [v.extractLsb' 16 16, v.extractLsb' 0 16]

/-- The mode bits of a source operand; IM is mode 00 (30_encoding.md R91, R100). -/
def Src.mode {n : Nat} : Src n → BitVec 2
  | .imm _ => 0
  | .reg _ => 2
  | .mem m => m.mode

/-- The register field of a source operand; IM has 0 (30_encoding.md R100). -/
def Src.field {n : Nat} : Src n → Reg
  | .imm _ => 0
  | .reg r => r
  | .mem m => m.field

/-- The words of a source operand of width `w`. -/
def Src.encode (w : Width) : Src w.bits → List Word
  | .imm v => immWords w v
  | .reg _ => []
  | .mem m => m.encode

/-- Format F-R2, F-IM, F-IR, F-DA, F-X (30_encoding.md R92, R110). -/
def encodeTwo (w : Width) (op : BitVec 6) (d : Reg) (src : Src w.bits) : List Word :=
  firstOf src.mode op src.field d :: src.encode w

/-- Format F-1, F-BIT, EX: the operand in the first field, `k` in the second (30_encoding.md R92). -/
def encodeOpd (op : BitVec 6) (o : Opd) (k : BitVec 4) : List Word :=
  firstOf o.mode op o.field k :: o.encode

/-- A memory operand in the first field, `k` in the second (30_encoding.md R92, F-ST, F-1). -/
def encodeMem (op : BitVec 6) (m : Mem) (k : BitVec 4) : List Word :=
  firstOf m.mode op m.field k :: m.encode

/-- PUSH and POP: the pointer in the first field, the operand in the second (30_encoding.md R112). -/
def encodeStack (op : BitVec 6) (p : Reg) (o : Opd) : List Word :=
  firstOf o.mode op p o.field :: o.encode

/-- LDM: the second operation word before the address (30_encoding.md R113, R133). -/
def encodeMultiple (k : BitVec 4) (m : Mem) (r n1 : BitVec 4) : List Word :=
  firstOf m.mode 0x1C m.field k :: secondOf r 0 n1 :: m.encode

/-- Format F-BITD (30_encoding.md R92, R114). -/
def encodeDyn (op : BitVec 6) (d s : Reg) : List Word := [firstOf 0 op 0 s, secondOf d 0 0]

/-- Rotates: bit 1 of the low digit is the count (30_encoding.md R95, R119). -/
def rotateCode (k : BitVec 4) (two : Bool) : BitVec 4 := if two then k + 2 else k

/-- The count word of a left shift (30_encoding.md R95). -/
def leftWord (n : Nat) : Word := BitVec.ofNat 16 n

/-- The count word of a right shift: minus the count (30_encoding.md R95). -/
def rightWord (n : Nat) : Word := -BitVec.ofNat 16 n

/-- The count word of a byte right shift: minus the count in bits 7:0 (30_encoding.md R95). -/
def rightWordByte (n : Nat) : Word := 0#8 ++ -BitVec.ofNat 8 n

/-- A register-group instruction of opcode bytes B0 to BF and its second word (30_encoding.md R117). -/
def encodeBlock (mode : BitVec 2) (op : BitVec 6) (f k a b c : BitVec 4) : List Word :=
  [firstOf mode op f k, secondOf a b c]

/-- The low digit of DI and EI: a 0 bit names the interrupt (30_encoding.md R95, R116). -/
def intField (ei vi nvi : Bool) : BitVec 4 :=
  0#1 ++ BitVec.ofBool ei ++ BitVec.ofBool (!vi) ++ BitVec.ofBool (!nvi)

/-- The words of an instruction (30_encoding.md R91 to R95, R110 to R122, R131). -/
def encode : Instr → List Word
  | .addb d src => encodeTwo .byte 0x00 d src
  | .add d src => encodeTwo .word 0x01 d src
  | .addl d src => encodeTwo .long 0x16 d src
  | .subb d src => encodeTwo .byte 0x02 d src
  | .sub d src => encodeTwo .word 0x03 d src
  | .subl d src => encodeTwo .long 0x12 d src
  | .orb d src => encodeTwo .byte 0x04 d src
  | .or d src => encodeTwo .word 0x05 d src
  | .andb d src => encodeTwo .byte 0x06 d src
  | .and d src => encodeTwo .word 0x07 d src
  | .xorb d src => encodeTwo .byte 0x08 d src
  | .xor d src => encodeTwo .word 0x09 d src
  | .cpb d src => encodeTwo .byte 0x0A d src
  | .cp d src => encodeTwo .word 0x0B d src
  | .cpl d src => encodeTwo .long 0x10 d src
  | .ldb d src => encodeTwo .byte 0x20 d src
  | .ld d src => encodeTwo .word 0x21 d src
  | .ldl d src => encodeTwo .long 0x14 d src
  | .mult d src => encodeTwo .word 0x19 d src
  | .multl d src => encodeTwo .long 0x18 d src
  | .div d src => encodeTwo .word 0x1B d src
  | .divl d src => encodeTwo .long 0x1A d src
  | .exb d src => encodeOpd 0x2C src d
  | .ex d src => encodeOpd 0x2D src d
  | .comb dst => encodeOpd 0x0C dst 0
  | .com dst => encodeOpd 0x0D dst 0
  | .negb dst => encodeOpd 0x0C dst 2
  | .neg dst => encodeOpd 0x0D dst 2
  | .testb dst => encodeOpd 0x0C dst 4
  | .test dst => encodeOpd 0x0D dst 4
  | .testl dst => encodeOpd 0x1C dst 8
  | .tsetb dst => encodeOpd 0x0C dst 6
  | .tset dst => encodeOpd 0x0D dst 6
  | .clrb dst => encodeOpd 0x0C dst 8
  | .clr dst => encodeOpd 0x0D dst 8
  | .cpbImm dst v => encodeMem 0x0C dst 1 ++ [imm8Word v]
  | .cpImm dst v => encodeMem 0x0D dst 1 ++ [v]
  | .ldbImm dst v => encodeMem 0x0C dst 5 ++ [imm8Word v]
  | .ldImm dst v => encodeMem 0x0D dst 5 ++ [v]
  | .ldctlbRead d => [firstOf 2 0x0C d 1]
  | .ldctlbWrite s => [firstOf 2 0x0C s 9]
  | .setflg f => [firstOf 2 0x0D f 1]
  | .resflg f => [firstOf 2 0x0D f 3]
  | .comflg f => [firstOf 2 0x0D f 5]
  | .nop => [firstOf 2 0x0D 0 7]
  | .pushImm p v => [firstOf 0 0x0D p 9, v]
  | .push p src => encodeStack 0x13 p src
  | .pushl p src => encodeStack 0x11 p src
  | .pop dst p => encodeStack 0x17 p dst
  | .popl dst p => encodeStack 0x15 p dst
  | .ldmLoad d src n1 => encodeMultiple 1 src d n1
  | .ldmStore dst s n1 => encodeMultiple 9 dst s n1
  | .ldbStore dst s => encodeMem 0x2E dst s
  | .ldStore dst s => encodeMem 0x2F dst s
  | .ldlStore dst s => encodeMem 0x1D dst s
  | .jp cc dst => encodeMem 0x1E dst cc.bits
  | .call dst => encodeMem 0x1F dst 0
  | .ret cc => [firstOf 2 0x1E 0 cc.bits]
  | .resb dst b => encodeOpd 0x22 dst (0#1 ++ b)
  | .res dst b => encodeOpd 0x23 dst b
  | .resbDyn d s => encodeDyn 0x22 d s
  | .resDyn d s => encodeDyn 0x23 d s
  | .setb dst b => encodeOpd 0x24 dst (0#1 ++ b)
  | .set dst b => encodeOpd 0x25 dst b
  | .setbDyn d s => encodeDyn 0x24 d s
  | .setDyn d s => encodeDyn 0x25 d s
  | .bitb dst b => encodeOpd 0x26 dst (0#1 ++ b)
  | .bit dst b => encodeOpd 0x27 dst b
  | .bitbDyn d s => encodeDyn 0x26 d s
  | .bitDyn d s => encodeDyn 0x27 d s
  | .incb dst n1 => encodeOpd 0x28 dst n1
  | .inc dst n1 => encodeOpd 0x29 dst n1
  | .decb dst n1 => encodeOpd 0x2A dst n1
  | .dec dst n1 => encodeOpd 0x2B dst n1
  | .tccb cc d => [firstOf 2 0x2E d cc.bits]
  | .tcc cc d => [firstOf 2 0x2F d cc.bits]
  | .ldrbLoad d disp => [firstOf 0 0x30 0 d, disp]
  | .ldrbStore disp s => [firstOf 0 0x32 0 s, disp]
  | .ldbBA d p disp => [firstOf 0 0x30 p d, disp]
  | .ldbStoreBA p disp s => [firstOf 0 0x32 p s, disp]
  | .ldbBX d p x => encodeBlock 1 0x30 p d x 0 0
  | .ldbStoreBX p x s => encodeBlock 1 0x32 p s x 0 0
  | .ldrLoad d disp => [firstOf 0 0x31 0 d, disp]
  | .ldrStore disp s => [firstOf 0 0x33 0 s, disp]
  | .ldBA d p disp => [firstOf 0 0x31 p d, disp]
  | .ldStoreBA p disp s => [firstOf 0 0x33 p s, disp]
  | .ldBX d p x => encodeBlock 1 0x31 p d x 0 0
  | .ldStoreBX p x s => encodeBlock 1 0x33 p s x 0 0
  | .ldrlLoad d disp => [firstOf 0 0x35 0 d, disp]
  | .ldrlStore disp s => [firstOf 0 0x37 0 s, disp]
  | .ldlBA d p disp => [firstOf 0 0x35 p d, disp]
  | .ldlStoreBA p disp s => [firstOf 0 0x37 p s, disp]
  | .ldlBX d p x => encodeBlock 1 0x35 p d x 0 0
  | .ldlStoreBX p x s => encodeBlock 1 0x37 p s x 0 0
  | .lda d src => firstOf 1 0x36 src.field d :: src.encode
  | .ldaBA d p disp => [firstOf 0 0x34 p d, disp]
  | .ldaBX d p x => encodeBlock 1 0x34 p d x 0 0
  | .ldar d disp => [firstOf 0 0x34 0 d, disp]
  | .inbInd d p => [firstOf 0 0x3C p d]
  | .inInd d p => [firstOf 0 0x3D p d]
  | .outbInd p s => [firstOf 0 0x3E p s]
  | .outInd p s => [firstOf 0 0x3F p s]
  | .in_ d port => [firstOf 0 0x3B d 4, port]
  | .inb d port => [firstOf 0 0x3A d 4, port]
  | .sin d port => [firstOf 0 0x3B d 5, port]
  | .sinb d port => [firstOf 0 0x3A d 5, port]
  | .out port s => [firstOf 0 0x3B s 6, port]
  | .outb port s => [firstOf 0 0x3A s 6, port]
  | .sout port s => [firstOf 0 0x3B s 7, port]
  | .soutb port s => [firstOf 0 0x3A s 7, port]
  | .ldps src => encodeMem 0x39 src 0
  | .halt => [firstOf 1 0x3A 0 0]
  | .iret => [firstOf 1 0x3B 0 0]
  | .mset => [firstOf 1 0x3B 0 8]
  | .mres => [firstOf 1 0x3B 0 9]
  | .mbit => [firstOf 1 0x3B 0 0xA]
  | .mreq d => [firstOf 1 0x3B d 0xD]
  | .di vi nvi => [firstOf 1 0x3C 0 (intField false vi nvi)]
  | .ei vi nvi => [firstOf 1 0x3C 0 (intField true vi nvi)]
  | .ldctlRead d c => [firstOf 1 0x3D d (0#1 ++ c.bits)]
  | .ldctlWrite c s => [firstOf 1 0x3D s (1#1 ++ c.bits)]
  | .sc n => [firstOf 1 0x3F (n.extractLsb' 4 4) (n.extractLsb' 0 4)]
  | .dab d => [firstOf 2 0x30 d 0]
  | .extsb d => [firstOf 2 0x31 d 0]
  | .exts d => [firstOf 2 0x31 d 0xA]
  | .extsl d => [firstOf 2 0x31 d 7]
  | .adcb d s => [firstOf 2 0x34 s d]
  | .adc d s => [firstOf 2 0x35 s d]
  | .sbcb d s => [firstOf 2 0x36 s d]
  | .sbc d s => [firstOf 2 0x37 s d]
  | .rldb l s => [firstOf 2 0x3E s l]
  | .rrdb l s => [firstOf 2 0x3C s l]
  | .ldk d n => [firstOf 2 0x3D d n]
  | .rlb d two => [firstOf 2 0x32 d (rotateCode 0 two)]
  | .rl d two => [firstOf 2 0x33 d (rotateCode 0 two)]
  | .rrb d two => [firstOf 2 0x32 d (rotateCode 4 two)]
  | .rr d two => [firstOf 2 0x33 d (rotateCode 4 two)]
  | .rlcb d two => [firstOf 2 0x32 d (rotateCode 8 two)]
  | .rlc d two => [firstOf 2 0x33 d (rotateCode 8 two)]
  | .rrcb d two => [firstOf 2 0x32 d (rotateCode 0xC two)]
  | .rrc d two => [firstOf 2 0x33 d (rotateCode 0xC two)]
  | .sllb d n => [firstOf 2 0x32 d 1, leftWord n]
  | .sll d n => [firstOf 2 0x33 d 1, leftWord n]
  | .slll d n => [firstOf 2 0x33 d 5, leftWord n]
  | .srlb d n => [firstOf 2 0x32 d 1, rightWordByte n]
  | .srl d n => [firstOf 2 0x33 d 1, rightWord n]
  | .srll d n => [firstOf 2 0x33 d 5, rightWord n]
  | .slab d n => [firstOf 2 0x32 d 9, leftWord n]
  | .sla d n => [firstOf 2 0x33 d 9, leftWord n]
  | .slal d n => [firstOf 2 0x33 d 0xD, leftWord n]
  | .srab d n => [firstOf 2 0x32 d 9, rightWordByte n]
  | .sra d n => [firstOf 2 0x33 d 9, rightWord n]
  | .sral d n => [firstOf 2 0x33 d 0xD, rightWord n]
  | .sdlb d s => encodeBlock 2 0x32 d 3 s 0 0
  | .sdl d s => encodeBlock 2 0x33 d 3 s 0 0
  | .sdll d s => encodeBlock 2 0x33 d 7 s 0 0
  | .sdab d s => encodeBlock 2 0x32 d 0xB s 0 0
  | .sda d s => encodeBlock 2 0x33 d 0xB s 0 0
  | .sdal d s => encodeBlock 2 0x33 d 0xF s 0 0
  | .trib d s r => encodeBlock 2 0x38 d 0x0 r s 0
  | .trirb d s r => encodeBlock 2 0x38 d 0x4 r s 0
  | .trdb d s r => encodeBlock 2 0x38 d 0x8 r s 0
  | .trdrb d s r => encodeBlock 2 0x38 d 0xC r s 0
  | .trtib d s r => encodeBlock 2 0x38 d 0x2 r s 0
  | .trtirb d s r => encodeBlock 2 0x38 d 0x6 r s 0xE
  | .trtdb d s r => encodeBlock 2 0x38 d 0xA r s 0
  | .trtdrb d s r => encodeBlock 2 0x38 d 0xE r s 0xE
  | .cpib d s r cc => encodeBlock 2 0x3A s 0x0 r d cc.bits
  | .cpi d s r cc => encodeBlock 2 0x3B s 0x0 r d cc.bits
  | .cpirb d s r cc => encodeBlock 2 0x3A s 0x4 r d cc.bits
  | .cpir d s r cc => encodeBlock 2 0x3B s 0x4 r d cc.bits
  | .cpdb d s r cc => encodeBlock 2 0x3A s 0x8 r d cc.bits
  | .cpd d s r cc => encodeBlock 2 0x3B s 0x8 r d cc.bits
  | .cpdrb d s r cc => encodeBlock 2 0x3A s 0xC r d cc.bits
  | .cpdr d s r cc => encodeBlock 2 0x3B s 0xC r d cc.bits
  | .cpsib d s r cc => encodeBlock 2 0x3A s 0x2 r d cc.bits
  | .cpsi d s r cc => encodeBlock 2 0x3B s 0x2 r d cc.bits
  | .cpsirb d s r cc => encodeBlock 2 0x3A s 0x6 r d cc.bits
  | .cpsir d s r cc => encodeBlock 2 0x3B s 0x6 r d cc.bits
  | .cpsdb d s r cc => encodeBlock 2 0x3A s 0xA r d cc.bits
  | .cpsd d s r cc => encodeBlock 2 0x3B s 0xA r d cc.bits
  | .cpsdrb d s r cc => encodeBlock 2 0x3A s 0xE r d cc.bits
  | .cpsdr d s r cc => encodeBlock 2 0x3B s 0xE r d cc.bits
  | .ldib d s r => encodeBlock 2 0x3A s 1 r d 8
  | .ldi d s r => encodeBlock 2 0x3B s 1 r d 8
  | .ldirb d s r => encodeBlock 2 0x3A s 1 r d 0
  | .ldir d s r => encodeBlock 2 0x3B s 1 r d 0
  | .lddb d s r => encodeBlock 2 0x3A s 9 r d 8
  | .ldd d s r => encodeBlock 2 0x3B s 9 r d 8
  | .lddrb d s r => encodeBlock 2 0x3A s 9 r d 0
  | .lddr d s r => encodeBlock 2 0x3B s 9 r d 0
  | .ini d s r => encodeBlock 0 0x3B s 0 r d 8
  | .inib d s r => encodeBlock 0 0x3A s 0 r d 8
  | .sini d s r => encodeBlock 0 0x3B s 1 r d 8
  | .sinib d s r => encodeBlock 0 0x3A s 1 r d 8
  | .inir d s r => encodeBlock 0 0x3B s 0 r d 0
  | .inirb d s r => encodeBlock 0 0x3A s 0 r d 0
  | .sinir d s r => encodeBlock 0 0x3B s 1 r d 0
  | .sinirb d s r => encodeBlock 0 0x3A s 1 r d 0
  | .ind d s r => encodeBlock 0 0x3B s 8 r d 8
  | .indb d s r => encodeBlock 0 0x3A s 8 r d 8
  | .sind d s r => encodeBlock 0 0x3B s 9 r d 8
  | .sindb d s r => encodeBlock 0 0x3A s 9 r d 8
  | .indr d s r => encodeBlock 0 0x3B s 8 r d 0
  | .indrb d s r => encodeBlock 0 0x3A s 8 r d 0
  | .sindr d s r => encodeBlock 0 0x3B s 9 r d 0
  | .sindrb d s r => encodeBlock 0 0x3A s 9 r d 0
  | .outi d s r => encodeBlock 0 0x3B s 2 r d 8
  | .outib d s r => encodeBlock 0 0x3A s 2 r d 8
  | .souti d s r => encodeBlock 0 0x3B s 3 r d 8
  | .soutib d s r => encodeBlock 0 0x3A s 3 r d 8
  | .otir d s r => encodeBlock 0 0x3B s 2 r d 0
  | .otirb d s r => encodeBlock 0 0x3A s 2 r d 0
  | .sotir d s r => encodeBlock 0 0x3B s 3 r d 0
  | .sotirb d s r => encodeBlock 0 0x3A s 3 r d 0
  | .outd d s r => encodeBlock 0 0x3B s 0xA r d 8
  | .outdb d s r => encodeBlock 0 0x3A s 0xA r d 8
  | .soutd d s r => encodeBlock 0 0x3B s 0xB r d 8
  | .soutdb d s r => encodeBlock 0 0x3A s 0xB r d 8
  | .otdr d s r => encodeBlock 0 0x3B s 0xA r d 0
  | .otdrb d s r => encodeBlock 0 0x3A s 0xA r d 0
  | .sotdr d s r => encodeBlock 0 0x3B s 0xB r d 0
  | .sotdrb d s r => encodeBlock 0 0x3A s 0xB r d 0
  | .ldbShort d v => [0xC#4 ++ d ++ v]
  | .calr p => [0xD#4 ++ p]
  | .jr cc p => [0xE#4 ++ cc.bits ++ p]
  | .dbjnz r p => [0xF#4 ++ r ++ 0#1 ++ p]
  | .djnz r p => [0xF#4 ++ r ++ 1#1 ++ p]
  | .epu0E lo w2 => [0x0E#8 ++ lo, w2]
  | .epu0F lo w2 => [0x0F#8 ++ lo, w2]
  | .epu4E lo w2 => [0x4E#8 ++ lo, w2]
  | .epu4F lo w2 => [0x4F#8 ++ lo, w2]
  | .epu8E lo w2 => [0x8E#8 ++ lo, w2]
  | .epu8F lo w2 => [0x8F#8 ++ lo, w2]

/-- The first word of an instruction: the identifier a trap pushes (60_exceptions.md R347). -/
def firstWord (i : Instr) : Word :=
  match encode i with
  | w :: _ => w
  | [] => 0

/-- The length of an instruction in bytes (30_encoding.md R93). -/
def Instr.bytes (i : Instr) : Nat := 2 * (encode i).length

end Sys2Proof
end

