-- ==== Sys2Proof/Machine/State.lean ====
section
/-! DEFINITION. The state of the Z8001 as plain data, why a step can stop, and the machine at reset. -/

namespace Sys2Proof.Machine

/-- The flag and control word (10_state.md R29): SEG 15, S/N 14, EPA 13, VIE 12, NVIE 11, C 7, Z 6,
S 5, P/V 4, D 3, H 2. The reserved bits 10:8 and 1:0 carry no state: they read as free values
(R34; DESIGN CHOICE, log 11). -/
structure Fcw where
  seg : Bool
  sn : Bool
  epa : Bool
  vie : Bool
  nvie : Bool
  c : Bool
  z : Bool
  s : Bool
  pv : Bool
  d : Bool
  h : Bool
deriving DecidableEq, Repr

/-- Memory: the bytes that differ from what an unlisted address reads as, by linear index
`segment * 65536 + offset` (20_memory.md R60, R63), rising. -/
abbrev Memory := List Host.Cell

/-- What a region of the address space lacks (20_memory.md R71). -/
inductive RegionKind where
  /-- No memory answers. -/
  | absent
  /-- Memory answers reads only: ROM is unpopulated for writes. -/
  | rom
deriving DecidableEq, Repr

/-- A region of linear indices `base` to `base + size - 1`. Outside every region there is RAM. -/
structure Region where
  base : Nat
  size : Nat
  kind : RegionKind
deriving DecidableEq, Repr

/-- What the environment drives at one instruction boundary (60_exceptions.md R320, R342): /RESET, an
edge on /NMI, the levels of /SEGT, /VI, /NVI (true = asserted), and the word on the bus at an
acknowledge cycle (R347). -/
structure Boundary where
  reset : Bool
  nmi : Bool
  segt : Bool
  vi : Bool
  nvi : Bool
  ident : Word
deriving DecidableEq, Repr

/-- One event of the I/O trace (46_input_output.md R266). A byte value is in the low byte. -/
inductive IoEvent where
  | inp (space : Space) (port : Word) (width : Width) (value : Word)
  | out (space : Space) (port : Word) (width : Width) (value : Word)
deriving DecidableEq, Repr

/-- The whole state of the machine (10_state.md R20), and the model's own fields. -/
structure State where
  /-- R0 to R13 (R21). -/
  gpr : Vector Word 14
  /-- System-mode R14 and R15 (R24). -/
  r14s : Word
  r15s : Word
  /-- Normal-mode R14 and R15, the control registers NSPSEG and NSPOFF (R24, R37). -/
  r14n : Word
  r15n : Word
  /-- The program counter (R26). -/
  pc : Addr
  fcw : Fcw
  /-- The program status area pointer: PSAPSEG bits 14:8 and PSAPOFF (R35). -/
  psap : Addr
  /-- REFRESH (R36); its low nine bits read as free values. -/
  refresh : Word
  mem : Memory
  /-- HALT has been executed and no event has come (R39). -/
  halted : Bool
  /-- The /Mo output latch, true = asserted (R39). -/
  mo : Bool
  nmiPending : Bool
  viReq : Bool
  nviReq : Bool
  segtReq : Bool
  resetReq : Bool
  /-- The last instruction stored into the word at its own `next_pc`: the following fetch is refused
  (20_memory.md R75; log 12). -/
  stale : Bool
  /-- The word on the bus at an acknowledge cycle (60_exceptions.md R347); the environment's. -/
  ident : Word
  /-- The event oracle (00_scope.md R5) as data: what the pins do at the coming boundaries. When the
  list is used up the lines keep their levels (DESIGN CHOICE, log 10) and each acknowledge reads a free word
  (R347). The model's own field. -/
  inputs : List Boundary
  /-- The I/O trace, oldest first (46_input_output.md R266). -/
  trace : List IoEvent
  /-- The parameter `mem_populated` (00_scope.md R5) as data: where memory is absent or read-only
  (DESIGN CHOICE, log 9). The model's own field. -/
  map : List Region
  /-- How many free values have been drawn (DESIGN CHOICE, log 4). The model's own field. -/
  draws : Nat
deriving DecidableEq, Repr

/-- Why a step has no next state on the hardware either: the spec gives an access to unpopulated
memory no step (20_memory.md R64, R65, R71; 93_implementation_defined.md U5). All three are safe:
nothing is proved of what follows. -/
inductive Fault where
  /-- Raised by the fetch when a word of the instruction is not in populated memory. -/
  | absentFetch
  /-- Raised by every memory read, trap entry and reset included. -/
  | absentRead
  /-- Raised by every memory write, trap entry included. -/
  | absentWrite
deriving DecidableEq, Repr

/-- What the spec makes a model refuse (93_implementation_defined.md U4). All are safe: the hardware
does something there that no source states. -/
inductive Refusal where
  /-- Raised by an arm of `exec` whose instruction has no meaning yet. Safe. -/
  | notModelled (mnemonic : String)
  /-- Raised by the fetch for a reserved encoding (30_encoding.md R130, R132). Safe. -/
  | reservedEncoding (why : Reserved)
  /-- Raised by word and long accesses and by the fetch at an odd offset (20_memory.md R67). Safe. -/
  | misaligned
  /-- Raised by every whole-FCW write of a word with bit 15 = 0 (10_state.md R34), and by `step` in a
  state whose SEG is 0 (R33; log 14). Safe. -/
  | segZero
  /-- Raised by trap entry when PSAPOFF bits 7:0 are not 0 (60_exceptions.md R332). Safe. -/
  | psapUnaligned
  /-- Raised by a vectored interrupt with an odd vector (60_exceptions.md R331). Safe. -/
  | oddVector
  /-- Raised by the fetch after a store into the storing instruction's next word (20_memory.md R75,
  45_block_string.md R236). Safe. -/
  | storeIntoNextWord
  /-- Raised by LDM when it would load its own address register (40_load_exchange.md R147). Safe. -/
  | ldmOverlap
  /-- Raised by PUSH and PUSHL when the source overlaps the pointer (40_load_exchange.md R150). Safe. -/
  | pushOverlap
  /-- Raised by POP and POPL when the destination overlaps the pointer (40_load_exchange.md R149). Safe. -/
  | popOverlap
  /-- Raised by block, string, translate and block I/O instructions whose registers overlap
  (45_block_string.md R235). Safe. -/
  | blockOverlap
  /-- Raised by an extended-instruction opcode with EPA = 1 (60_exceptions.md R334). Safe. -/
  | epuPresent
deriving DecidableEq, Repr

/-- The machine with /RESET asserted (log 2): the next step performs the reset sequence of
70_reset_and_hazards.md R370, which loads FCW and PC from memory. The values the spec gives
(10_state.md R41): `halted`, `mo`, `nmiPending` 0. The registers to which it gives none hold 0
(DESIGN CHOICE, log 1); FCW 0xC000 and PC (0, 0) stand until the sequence has loaded them
(DESIGN CHOICE, log 2). -/
def State.reset : State where
  gpr := Vector.replicate 14 0
  r14s := 0
  r15s := 0
  r14n := 0
  r15n := 0
  pc := ⟨0, 0⟩
  fcw := ⟨true, true, false, false, false, false, false, false, false, false, false⟩
  psap := ⟨0, 0⟩
  refresh := 0
  mem := []
  halted := false
  mo := false
  nmiPending := false
  viReq := false
  nviReq := false
  segtReq := false
  resetReq := true
  stale := false
  ident := 0
  inputs := []
  trace := []
  map := []
  draws := 0

end Sys2Proof.Machine
end

