-- ==== Sys2Proof/Machine/Flags.lean ====
section
/-! DEFINITION. The flag functions of 10_state.md R32, the conditions of 44_program_control.md R221, the
correction table of DAB, the single-step shifts of 43_rotate_shift.md R200, and the words of FCW. -/

namespace Sys2Proof.Machine

/-- The result of `add_W` or `sub_W` and the flags they define (10_state.md R32). -/
structure Sum (n : Nat) where
  r : BitVec n
  c : Bool
  z : Bool
  s : Bool
  v : Bool
  h : Bool
deriving DecidableEq, Repr

/-- `add_W(a, b, cin)` (10_state.md R32). -/
def addW {n : Nat} (a b : BitVec n) (cin : Bool) : Sum n :=
  let sum := a.toNat + b.toNat + cin.toNat
  let r := BitVec.ofNat n sum
  { r := r
    c := decide (2 ^ n ≤ sum)
    z := decide (r = 0#n)
    s := r.msb
    v := a.msb == b.msb && r.msb != a.msb
    h := decide (15 < a.toNat % 16 + b.toNat % 16 + cin.toNat) }

/-- `sub_W(a, b, bin)`: C and H are borrows (10_state.md R32). -/
def subW {n : Nat} (a b : BitVec n) (bin : Bool) : Sum n :=
  let diff : Int := (a.toNat : Int) - b.toNat - bin.toNat
  let r := BitVec.ofInt n diff
  { r := r
    c := decide (diff < 0)
    z := decide (r = 0#n)
    s := r.msb
    v := a.msb != b.msb && r.msb != a.msb
    h := decide (((a.toNat % 16 : Nat) : Int) - (b.toNat % 16 : Nat) - bin.toNat < 0) }

/-- The number of 1 bits among the low `k` bits. -/
def onesBelow {n : Nat} (v : BitVec n) : Nat → Nat
  | 0 => 0
  | k + 1 => onesBelow v k + (v.getLsbD k).toNat

/-- Even parity: an even number of 1 bits (10_state.md R32, `logic_flags_W`). -/
def evenParity {n : Nat} (v : BitVec n) : Bool := decide (onesBelow v n % 2 = 0)

/-- Writes C, Z, S and P/V. -/
def Fcw.setCZSV (f : Fcw) (c z s v : Bool) : Fcw := { f with c := c, z := z, s := s, pv := v }

/-- Writes Z and S from a result (10_state.md R32, `zs_W`). -/
def Fcw.setZS {n : Nat} (f : Fcw) (r : BitVec n) : Fcw := { f with z := decide (r = 0#n), s := r.msb }

/-- Writes P/V. -/
def Fcw.setPV (f : Fcw) (v : Bool) : Fcw := { f with pv := v }

/-- Writes Z. -/
def Fcw.setZ (f : Fcw) (z : Bool) : Fcw := { f with z := z }

/-- Writes D and H for the byte forms, neither for the others: the card's `b` (00_scope.md R9). -/
def Fcw.setDH (f : Fcw) (w : Width) (d h : Bool) : Fcw :=
  match w with
  | .byte => { f with d := d, h := h }
  | .word => f
  | .long => f

/-- The flags an addition leaves: C, Z, S, P/V; D and H for the byte form only
(41_arithmetic.md R161, R162, R171, R172). -/
def Fcw.setArith {n : Nat} (f : Fcw) (w : Width) (d : Bool) (x : Sum n) : Fcw :=
  (f.setCZSV x.c x.z x.s x.v).setDH w d x.h

/-- The flags a logical operation leaves: Z, S; P/V as parity for the byte form only
(42_logical_bit.md R180). -/
def Fcw.setLogic {n : Nat} (f : Fcw) (w : Width) (r : BitVec n) : Fcw :=
  match w with
  | .byte => (f.setZS r).setPV (evenParity r)
  | .word => f.setZS r
  | .long => f.setZS r

/-- The truth of a condition on given flags (44_program_control.md R221). -/
def condOn (cc : CC) (c z s v : Bool) : Bool :=
  match cc with
  | .never => false
  | .lt => s ^^ v
  | .le => z || (s ^^ v)
  | .ule => c || z
  | .ov => v
  | .mi => s
  | .eq => z
  | .ult => c
  | .always => true
  | .ge => !(s ^^ v)
  | .gt => !(z || (s ^^ v))
  | .ugt => !c && !z
  | .nov => !v
  | .pl => !s
  | .ne => !z
  | .uge => !c

/-- `cond(cc)` on FCW (44_program_control.md R221). -/
def cond (cc : CC) (f : Fcw) : Bool := condOn cc f.c f.z f.s f.pv

/-- One row of the correction table of DAB (41_arithmetic.md R164): the inputs, with inclusive ranges
for the digits, the value added, and C after. -/
structure DabRow where
  d : Bool
  c : Bool
  hiMin : Nat
  hiMax : Nat
  h : Bool
  loMin : Nat
  loMax : Nat
  add : Byte
  carry : Bool
deriving DecidableEq, Repr

/-- The correction table (41_arithmetic.md R164). -/
def dabTable : List DabRow :=
  [⟨false, false, 0x0, 0x9, false, 0x0, 0x9, 0x00, false⟩,
   ⟨false, false, 0x0, 0x8, false, 0xA, 0xF, 0x06, false⟩,
   ⟨false, false, 0x0, 0x9, true, 0x0, 0x3, 0x06, false⟩,
   ⟨false, false, 0xA, 0xF, false, 0x0, 0x9, 0x60, true⟩,
   ⟨false, false, 0x9, 0xF, false, 0xA, 0xF, 0x66, true⟩,
   ⟨false, false, 0xA, 0xF, true, 0x0, 0x3, 0x66, true⟩,
   ⟨false, true, 0x0, 0x2, false, 0x0, 0x9, 0x60, true⟩,
   ⟨false, true, 0x0, 0x2, false, 0xA, 0xF, 0x66, true⟩,
   ⟨false, true, 0x0, 0x3, true, 0x0, 0x3, 0x66, true⟩,
   ⟨true, false, 0x0, 0x9, false, 0x0, 0x9, 0x00, false⟩,
   ⟨true, false, 0x0, 0x8, true, 0x6, 0xF, 0xFA, false⟩,
   ⟨true, true, 0x7, 0xF, false, 0x0, 0x9, 0xA0, true⟩,
   ⟨true, true, 0x6, 0xF, true, 0x6, 0xF, 0x9A, true⟩]

/-- The row's inputs are these. -/
def DabRow.fits (row : DabRow) (d c h : Bool) (hi lo : Nat) : Bool :=
  row.d == d && row.c == c && row.h == h && decide (row.hiMin ≤ hi) && decide (hi ≤ row.hiMax) &&
    decide (row.loMin ≤ lo) && decide (lo ≤ row.loMax)

/-- The value DAB adds and C after, when the inputs are in the table (41_arithmetic.md R164). -/
def dabLookup (v : Byte) (d c h : Bool) : Option (Byte × Bool) :=
  match dabTable.find? fun row => row.fits d c h (v.toNat / 16) (v.toNat % 16) with
  | some row => some (row.add, row.carry)
  | none => none

/-- `shl1` (43_rotate_shift.md R200): the shifted value and the bit that left. -/
def shl1 {n : Nat} (v : BitVec n) (_ : Bool) : BitVec n × Bool := (v <<< 1, v.msb)

/-- `shr1_log` (43_rotate_shift.md R200). -/
def shr1Log {n : Nat} (v : BitVec n) (_ : Bool) : BitVec n × Bool := (v >>> 1, v.getLsbD 0)

/-- `shr1_arith` (43_rotate_shift.md R200). -/
def shr1Arith {n : Nat} (v : BitVec n) (_ : Bool) : BitVec n × Bool := (v.sshiftRight 1, v.getLsbD 0)

/-- `rol1` (43_rotate_shift.md R200). -/
def rol1 {n : Nat} (v : BitVec n) (_ : Bool) : BitVec n × Bool := (v.rotateLeft 1, v.msb)

/-- `ror1` (43_rotate_shift.md R200). -/
def ror1 {n : Nat} (v : BitVec n) (_ : Bool) : BitVec n × Bool := (v.rotateRight 1, v.getLsbD 0)

/-- `rolc1`: the carry enters at bit 0 (43_rotate_shift.md R200). -/
def rolc1 {n : Nat} (v : BitVec n) (c : Bool) : BitVec n × Bool :=
  ((v <<< 1) ||| (BitVec.ofBool c).setWidth n, v.msb)

/-- `rorc1`: the carry enters at the top bit (43_rotate_shift.md R200). -/
def rorc1 {n : Nat} (v : BitVec n) (c : Bool) : BitVec n × Bool :=
  ((v >>> 1) ||| ((BitVec.ofBool c).setWidth n <<< (n - 1)), v.getLsbD 0)

/-- What `k` single steps leave: the value, the bit that left last (`out` before any step), and whether
the top bit ever differed from `top` (43_rotate_shift.md R200). -/
structure Shifted (n : Nat) where
  v : BitVec n
  out : Bool
  moved : Bool
deriving DecidableEq, Repr

/-- `k` single steps of a shift or rotate (43_rotate_shift.md R200). -/
def shiftSteps {n : Nat} (one : BitVec n → Bool → BitVec n × Bool) (top : Bool) : Nat → Shifted n → Shifted n
  | 0, x => x
  | k + 1, x =>
    let y := one x.v x.out
    shiftSteps one top k ⟨y.1, y.2, x.moved || y.1.msb != top⟩

/-- `k` single steps from a value and a carry. -/
def shiftBy {n : Nat} (one : BitVec n → Bool → BitVec n × Bool) (k : Nat) (v : BitVec n) (c : Bool) : Shifted n :=
  shiftSteps one v.msb k ⟨v, c, false⟩

/-- `sign_change`: `free` is the draw of the third case, the top bit changed and changed back
(43_rotate_shift.md R200). -/
def signChange {n : Nat} (v : BitVec n) (x : Shifted n) (free : Bool) : Bool :=
  if x.v.msb != v.msb then true else if x.moved then free else false

/-- The five bits of the reserved positions 10:8 and 1:0 of a free value. -/
def reservedBits (q : Quad) : BitVec 5 := q.extractLsb' 0 5

/-- FLAGS, the low byte of FCW, with bits 1:0 given (10_state.md R29). -/
def Fcw.flags (f : Fcw) (low : BitVec 2) : Byte :=
  BitVec.ofBool f.c ++ BitVec.ofBool f.z ++ BitVec.ofBool f.s ++ BitVec.ofBool f.pv ++ BitVec.ofBool f.d ++
    BitVec.ofBool f.h ++ low

/-- FCW as a word, with the reserved bits 10:8 and 1:0 given (10_state.md R29, R34). -/
def Fcw.toWord (f : Fcw) (free : BitVec 5) : Word :=
  BitVec.ofBool f.seg ++ BitVec.ofBool f.sn ++ BitVec.ofBool f.epa ++ BitVec.ofBool f.vie ++ BitVec.ofBool f.nvie ++
    free.extractLsb' 2 3 ++ f.flags (free.extractLsb' 0 2)

/-- FCW with the flags of a FLAGS byte: bits 7:2 (10_state.md R34). -/
def Fcw.withFlags (f : Fcw) (b : Byte) : Fcw :=
  { f with c := b.getLsbD 7, z := b.getLsbD 6, s := b.getLsbD 5, pv := b.getLsbD 4, d := b.getLsbD 3, h := b.getLsbD 2 }

/-- The FCW a word holds: bits 15:11 and 7:2 (10_state.md R29, R34). -/
def Fcw.ofWord (v : Word) : Fcw :=
  Fcw.withFlags ⟨v.getLsbD 15, v.getLsbD 14, v.getLsbD 13, v.getLsbD 12, v.getLsbD 11,
    false, false, false, false, false, false⟩ (v.extractLsb' 0 8)

end Sys2Proof.Machine
end

