-- ==== Sys2Proof/Machine/Ops.lean ====
section
/-! DEFINITION. The named operations over registers, addresses, memory, ports and free values; a trap or
interrupt entry, the return from one, the loading of a program status, and reset. -/

namespace Sys2Proof.Machine

/-- A value, or why the step stops. -/
abbrev Res (α : Type) := Host.Outcome α Fault Refusal

/-- Goes on with the value; a fault or a refusal ends the step. -/
def Res.andThen {α β : Type} (m : Res α) (f : α → Res β) : Res β :=
  match m with
  | .next a => f a
  | .fault e => .fault e
  | .refused e => .refused e

/- Free values. -/

/-- The `k`-th free value of this step (00_scope.md R8; DESIGN CHOICE, log 4). -/
def draw (k : Nat) (s : State) : Quad := Config.draw (s.draws + k)

/-- The `k`-th free value of this step as one bit. -/
def drawBit (k : Nat) (s : State) : Bool := (draw k s).getLsbD 0

/-- `n` free values have been used. -/
def spend (n : Nat) (s : State) : State := { s with draws := s.draws + n }

/- General registers. -/

/-- `R[r]`; R14 and R15 are those of the current mode (10_state.md R21, R24). -/
def readWord (r : Reg) (s : State) : Word :=
  if h : r.toNat < 14 then s.gpr[r.toNat]
  else if r = 14#4 then (if s.fcw.sn then s.r14s else s.r14n)
  else (if s.fcw.sn then s.r15s else s.r15n)

/-- `R[r] <- v` (10_state.md R21, R24). -/
def writeWord (r : Reg) (v : Word) (s : State) : State :=
  if h : r.toNat < 14 then { s with gpr := s.gpr.set r.toNat v }
  else if r = 14#4 then (if s.fcw.sn then { s with r14s := v } else { s with r14n := v })
  else (if s.fcw.sn then { s with r15s := v } else { s with r15n := v })

/-- The word register that holds the byte register of field `k` (10_state.md R22). -/
def byteHome (k : Reg) : Reg := 0#1 ++ k.extractLsb' 0 3

/-- `RB[k]`: fields 0 to 7 are RH0 to RH7, 8 to 15 are RL0 to RL7 (10_state.md R22). -/
def readByte (k : Reg) (s : State) : Byte :=
  if k.getLsbD 3 then (readWord (byteHome k) s).extractLsb' 0 8
  else (readWord (byteHome k) s).extractLsb' 8 8

/-- `RB[k] <- v`: the other byte of the word is unchanged (10_state.md R22). -/
def writeByte (k : Reg) (v : Byte) (s : State) : State :=
  let old := readWord (byteHome k) s
  writeWord (byteHome k) (if k.getLsbD 3 then old.extractLsb' 8 8 ++ v else v ++ old.extractLsb' 0 8) s

/-- `RR[n]`: Rn is the more significant word (10_state.md R23). -/
def readLong (r : Reg) (s : State) : Long := readWord r s ++ readWord (r + 1#4) s

/-- `RR[n] <- v` (10_state.md R23). -/
def writeLong (r : Reg) (v : Long) (s : State) : State :=
  writeWord (r + 1#4) (v.extractLsb' 0 16) (writeWord r (v.extractLsb' 16 16) s)

/-- `RQ[n]` (10_state.md R23). -/
def readQuad (r : Reg) (s : State) : Quad := readLong r s ++ readLong (r + 2#4) s

/-- `RQ[n] <- v` (10_state.md R23). -/
def writeQuad (r : Reg) (v : Quad) (s : State) : State :=
  writeLong (r + 2#4) (v.extractLsb' 0 32) (writeLong r (v.extractLsb' 32 32) s)

/-- `Reg_W[r]` (00_scope.md R8). -/
def readReg (w : Width) (r : Reg) (s : State) : BitVec w.bits :=
  match w with
  | .byte => readByte r s
  | .word => readWord r s
  | .long => readLong r s

/-- `Reg_W[r] <- v` (00_scope.md R8). -/
def writeReg (w : Width) (r : Reg) (v : BitVec w.bits) (s : State) : State :=
  match w with
  | .byte => writeByte r v s
  | .word => writeWord r v s
  | .long => writeLong r v s

/-- Writes FCW. -/
def setFcw (f : Fcw) (s : State) : State := { s with fcw := f }

/- Addresses. -/

/-- `addr + k`: on the offset only, the segment is kept (20_memory.md R62). -/
def offsetBy (a : Addr) (k : Word) : Addr := { a with off := a.off + k }

/-- The linear index of a byte (20_memory.md R63). -/
def linear (a : Addr) : Nat := a.seg.toNat * 65536 + a.off.toNat

/-- `addr_of`: bits 30:24 are the segment, 15:0 the offset, the others are ignored (20_memory.md R61). -/
def addrOf (v : Long) : Addr := ⟨v.extractLsb' 24 7, v.extractLsb' 0 16⟩

/-- The high word of `long_of`: bit 15 and bits 7:0 are free (20_memory.md R61). -/
def segmentWord (seg : BitVec 7) (free : Quad) : Word := free.extractLsb' 8 1 ++ seg ++ free.extractLsb' 0 8

/-- `long_of` with the free value of its reserved bits (20_memory.md R61). -/
def longOf (a : Addr) (free : Quad) : Long := segmentWord a.seg free ++ a.off

/-- `addr_of(RR[p])` (20_memory.md R61). -/
def pointer (p : Reg) (s : State) : Addr := addrOf (readLong p s)

/-- Moves the pointer RRp by `k`: the offset word only (20_memory.md R62). -/
def stepPointer (p : Reg) (k : Word) (s : State) : State := writeWord (p + 1#4) (readWord (p + 1#4) s + k) s

/-- `next_pc` of an instruction of `n` words (10_state.md R27, R28). -/
def nextPc (n : Nat) (s : State) : Addr := offsetBy s.pc (BitVec.ofNat 16 (2 * n))

/-- `pc <- target`. -/
def jumpTo (a : Addr) (s : State) : State := { s with pc := a }

/-- `pc <- next_pc` after an instruction of `n` words that has not written the PC. -/
def advance (n : Nat) (s : State) : State := jumpTo (nextPc n s) s

/- Memory. -/

/-- What a byte that nothing has written reads as (DESIGN CHOICE, log 3). -/
def unwritten : Byte := 0#8

/-- The byte at a linear index. -/
def Memory.read : Memory → Nat → Byte
  | [], _ => unwritten
  | (k, b) :: m, a => if a = k then b else Memory.read m a

/-- The list without the entry at `a`. -/
def Memory.erase (m : Memory) (a : Nat) : Memory := m.filter fun e => decide (e.1 ≠ a)

/-- Puts an entry where the order wants it; a byte that reads as unwritten needs none. -/
def Memory.put : Memory → Nat → Byte → Memory
  | [], a, v => if v = unwritten then [] else [(a, v)]
  | (k, b) :: m, a, v =>
    if k < a then (k, b) :: Memory.put m a v
    else if v = unwritten then (k, b) :: m else (a, v) :: (k, b) :: m

/-- Writes the byte at a linear index, keeping the canonical form. -/
def Memory.write (m : Memory) (a : Nat) (v : Byte) : Memory := Memory.put (Memory.erase m a) a v

/-- The canonical form from index `lo` on: rising indices inside the address space, no entry that
reads as unwritten. -/
def Memory.wfFrom : Nat → Memory → Bool
  | _, [] => true
  | lo, (k, b) :: m => decide (lo ≤ k) && decide (k < 2 ^ 23) && decide (b ≠ unwritten) && Memory.wfFrom (k + 1) m

/-- The canonical form of memory: equal memories are equal lists. -/
def Memory.wf (m : Memory) : Bool := Memory.wfFrom 0 m

/-- The index lies in the region. -/
def Region.covers (g : Region) (a : Nat) : Bool := decide (g.base ≤ a) && decide (a < g.base + g.size)

/-- A read of this byte is answered (20_memory.md R64, R71). -/
def readable (s : State) (a : Addr) : Bool :=
  !s.map.any fun g => g.covers (linear a) && decide (g.kind = .absent)

/-- A write of this byte is answered: ROM is unpopulated for writes (20_memory.md R65, R71). -/
def writable (s : State) (a : Addr) : Bool := !s.map.any fun g => g.covers (linear a)

/-- The byte of memory at an address. -/
def byteAt (s : State) (a : Addr) : Byte := s.mem.read (linear a)

/-- Writes one byte of memory. -/
def pokeByte (a : Addr) (b : Byte) (s : State) : State := { s with mem := s.mem.write (linear a) b }

/-- The bytes of an access, the lowest first: offsets wrap inside the segment (20_memory.md R62, R64). -/
def span (w : Width) (a : Addr) : List Addr :=
  match w with
  | .byte => [a]
  | .word => [a, offsetBy a 1#16]
  | .long => [a, offsetBy a 1#16, offsetBy a 2#16, offsetBy a 3#16]

/-- Words and long words lie at even offsets (20_memory.md R67). -/
def aligned (w : Width) (a : Addr) : Bool :=
  match w with
  | .byte => true
  | .word => !a.off.getLsbD 0
  | .long => !a.off.getLsbD 0

/-- The value of the bytes at an address, the byte at the lowest address most significant
(20_memory.md R64, R66). -/
def peek (w : Width) (a : Addr) (s : State) : BitVec w.bits :=
  match w with
  | .byte => byteAt s a
  | .word => byteAt s a ++ byteAt s (offsetBy a 1#16)
  | .long => byteAt s a ++ byteAt s (offsetBy a 1#16) ++ byteAt s (offsetBy a 2#16) ++ byteAt s (offsetBy a 3#16)

/-- Writes the bytes of a value, the most significant to the lowest address (20_memory.md R65, R66). -/
def poke (w : Width) (a : Addr) (v : BitVec w.bits) (s : State) : State :=
  match w with
  | .byte => pokeByte a v s
  | .word => pokeByte (offsetBy a 1#16) (v.extractLsb' 0 8) (pokeByte a (v.extractLsb' 8 8) s)
  | .long =>
    pokeByte (offsetBy a 3#16) (v.extractLsb' 0 8) (pokeByte (offsetBy a 2#16) (v.extractLsb' 8 8)
      (pokeByte (offsetBy a 1#16) (v.extractLsb' 16 8) (pokeByte a (v.extractLsb' 24 8) s)))

/-- `MemRead` (20_memory.md R64). -/
def load (w : Width) (a : Addr) (s : State) : Res (BitVec w.bits) :=
  if aligned w a = false then .refused .misaligned
  else if (span w a).all (readable s) then .next (peek w a s)
  else .fault .absentRead

/-- The bytes whose change makes the following fetch refuse: `len` bytes from `lo` (20_memory.md R75). -/
structure Guard where
  lo : Addr
  len : Nat
deriving DecidableEq, Repr

/-- No byte: an event step stores into no instruction's next word (log 12). -/
def Guard.none : Guard := ⟨⟨0, 0⟩, 0⟩

/-- The word at the `next_pc` of an instruction of `n` words (20_memory.md R75). -/
def Guard.after (n : Nat) (s : State) : Guard := ⟨nextPc n s, 2⟩

/-- A repeating instruction of two words: its own words and the word at its `next_pc`
(45_block_string.md R236). -/
def Guard.repeating (s : State) : Guard := ⟨s.pc, 6⟩

/-- The address is one of the guarded bytes. -/
def Guard.covers (g : Guard) (a : Addr) : Bool :=
  decide (a.seg = g.lo.seg) && decide ((a.off - g.lo.off).toNat < g.len)

/-- Marks the next fetch when a stored byte is guarded (20_memory.md R75). -/
def markStale (g : Guard) (stored : List Addr) (s : State) : State :=
  { s with stale := s.stale || stored.any g.covers }

/-- `MemWrite` (20_memory.md R65). -/
def store (g : Guard) (w : Width) (a : Addr) (v : BitVec w.bits) (s : State) : Res State :=
  if aligned w a = false then .refused .misaligned
  else if (span w a).all (writable s) then .next (markStale g (span w a) (poke w a v s))
  else .fault .absentWrite

/- Ports. -/

/-- Appends an event to the I/O trace (46_input_output.md R266). -/
def logIo (e : IoEvent) (s : State) : State := { s with trace := s.trace ++ [e] }

/-- The value a port read of this step gives (46_input_output.md R266; log 5). -/
def portValue (sp : Space) (port : Word) (w : Width) (s : State) : BitVec w.bits :=
  (Config.ioRead sp port w s.draws).setWidth w.bits

/-- `IoRead`: the state after the read of `portValue` (46_input_output.md R266). -/
def ioRead (sp : Space) (port : Word) (w : Width) (s : State) : State :=
  spend 1 (logIo (.inp sp port w ((portValue sp port w s).setWidth 16)) s)

/-- `IoWrite` (46_input_output.md R266). -/
def ioWrite (sp : Space) (port : Word) (w : Width) (v : BitVec w.bits) (s : State) : State :=
  logIo (.out sp port w (v.setWidth 16)) s

/- Program status, traps and interrupts. -/

/-- A whole-FCW write: SEG = 0 is refused (10_state.md R34). -/
def writeFcw (v : Word) (s : State) : Res State :=
  if v.getLsbD 15 then .next (setFcw (Fcw.ofWord v) s) else .refused .segZero

/-- Loads FCW from one address, then the PC from another (60_exceptions.md R332, 47_cpu_control.md R300). -/
def loadStatus (fcwAt pcAt : Addr) (s : State) : Res State :=
  (load .word fcwAt s).andThen fun f =>
  (writeFcw f s).andThen fun s =>
  (load .long pcAt s).andThen fun p =>
  .next (jumpTo (addrOf p) s)

/-- The events that enter a handler (60_exceptions.md R333). -/
inductive Event where
  | extendedInstruction
  | privilegedInstruction
  | systemCall
  | segmentTrap
  | nmi
  | nonVectored
  | vectored
deriving DecidableEq, Repr

/-- The entry of an event in the program status area (60_exceptions.md R331). -/
def Event.offset : Event → Word
  | .extendedInstruction => 8
  | .privilegedInstruction => 16
  | .systemCall => 24
  | .segmentTrap => 32
  | .nmi => 40
  | .nonVectored => 48
  | .vectored => 56

/-- Where the new PC of an event stands in the program status area: for a vectored interrupt in the
table, selected by the low byte of the identifier (60_exceptions.md R331, R332). -/
def Event.pcOffset (e : Event) (id : Word) : Word :=
  match e with
  | .vectored => 60#16 + 2#16 * (id &&& 0xFF#16)
  | e => e.offset + 4#16

/-- Pushes the frame of a trap or interrupt on the system stack: PC offset, PC segment, the old FCW, the
identifier on top (60_exceptions.md R330, R332). -/
def pushFrame (g : Guard) (id : Word) (spc : Addr) (s : State) : Res State :=
  let old := s.fcw.toWord (reservedBits (draw 0 s))
  let seg := segmentWord spc.seg (draw 1 s)
  let s := stepPointer 14#4 (-8#16) (setFcw { s.fcw with sn := true } (spend 2 s))
  let sp := pointer 14#4 s
  (store g .word (offsetBy sp 6#16) spc.off s).andThen fun s =>
  (store g .word (offsetBy sp 4#16) seg s).andThen fun s =>
  (store g .word (offsetBy sp 2#16) old s).andThen fun s =>
  store g .word sp id s

/-- An accepted non-maskable interrupt is no longer pending (60_exceptions.md R332). -/
def acknowledge (e : Event) (s : State) : State :=
  match e with
  | .nmi => { s with nmiPending := false }
  | _ => s

/-- `enter(E)` with the identifier `id` and the saved PC `spc` (60_exceptions.md R332): the one
operation that takes every trap and interrupt. -/
def enter (g : Guard) (e : Event) (id : Word) (spc : Addr) (s : State) : Res State :=
  if s.psap.off.extractLsb' 0 8 ≠ 0#8 then .refused .psapUnaligned
  else
    (pushFrame g id spc s).andThen fun s =>
    if e = .vectored ∧ id.getLsbD 0 then .refused .oddVector
    else
      (loadStatus (offsetBy s.psap (e.offset + 2#16)) (offsetBy s.psap (e.pcOffset id)) s).andThen fun s =>
      .next (acknowledge e s)

/-- The PC the privileged and extended instruction traps save (60_exceptions.md R346; log 8). -/
def trapPc (i : Instr) (s : State) : Addr :=
  if Config.privTrapSavesNextPc then offsetBy s.pc (BitVec.ofNat 16 i.bytes) else offsetBy s.pc 2#16

/-- The guard of a store that instruction `i` makes. -/
def guardOf (i : Instr) (s : State) : Guard := ⟨offsetBy s.pc (BitVec.ofNat 16 i.bytes), 2⟩

/-- The privileged instruction trap (60_exceptions.md R335). -/
def privilegedTrap (i : Instr) (s : State) : Res State :=
  enter (guardOf i s) .privilegedInstruction (firstWord i) (trapPc i s) s

/-- The extended instruction trap (60_exceptions.md R334). -/
def extendedTrap (i : Instr) (s : State) : Res State :=
  enter (guardOf i s) .extendedInstruction (firstWord i) (trapPc i s) s

/-- The system call trap: the saved PC is `next_pc` (60_exceptions.md R336). -/
def systemCallTrap (i : Instr) (s : State) : Res State :=
  enter (guardOf i s) .systemCall (firstWord i) (offsetBy s.pc (BitVec.ofNat 16 i.bytes)) s

/-- The first action of a privileged instruction: in normal mode it traps and has no effect of its own
(47_cpu_control.md R290, 46_input_output.md R265). -/
def privileged (i : Instr) (s : State) (body : Res State) : Res State :=
  if s.fcw.sn then body else privilegedTrap i s

/-- The return from a trap or interrupt: pops the identifier (read and discarded), FCW and PC from the
system stack (47_cpu_control.md R296, 60_exceptions.md R344). -/
def returnFromTrap (s : State) : Res State :=
  let a := pointer 14#4 s
  (load .word a s).andThen fun _ =>
  (load .word (offsetBy a 2#16) s).andThen fun f =>
  (load .long (offsetBy a 4#16) s).andThen fun p =>
  (writeFcw f (stepPointer 14#4 8#16 s)).andThen fun s =>
  .next (jumpTo (addrOf p) s)

/-- Reset (70_reset_and_hazards.md R370): FCW and PC from segment 0; `halted`, `mo`, `nmiPending` 0; every
register to which the spec gives no value holds the one of `State.reset` (log 1); memory is unchanged. -/
def performReset (s : State) : Res State :=
  (load .word ⟨0, 2⟩ s).andThen fun f =>
  (load .word ⟨0, 4⟩ s).andThen fun ps =>
  (load .word ⟨0, 6⟩ s).andThen fun po =>
  (writeFcw f s).andThen fun s =>
  .next
    { s with
      gpr := State.reset.gpr
      r14s := State.reset.r14s
      r15s := State.reset.r15s
      r14n := State.reset.r14n
      r15n := State.reset.r15n
      pc := ⟨ps.extractLsb' 8 7, po⟩
      psap := State.reset.psap
      refresh := State.reset.refresh
      halted := false
      mo := false
      nmiPending := false
      resetReq := false
      stale := false }

end Sys2Proof.Machine
end

