-- ==== Sys2Proof/Machine/Operands.lean ====
section
/-! DEFINITION. The operand forms (30_encoding.md R100 to R109): effective addresses, and reading and
writing an operand of width W. -/

namespace Sys2Proof.Machine

/-- EA of DA and X (30_encoding.md R104, R105). -/
def directAddr (d : Direct) (s : State) : Addr :=
  match d with
  | .da a => a.addr
  | .idx x a => offsetBy a.addr (readWord x s)

/-- EA of IR, DA and X (30_encoding.md R103 to R105). -/
def memAddr (m : Mem) (s : State) : Addr :=
  match m with
  | .ir p => pointer p s
  | .dir d => directAddr d s

/-- EA of RA: from `next_pc` of a two-word instruction (30_encoding.md R106). -/
def relativeAddr (disp : Word) (s : State) : Addr := offsetBy (nextPc 2 s) disp

/-- EA of BA (30_encoding.md R107). -/
def basedAddr (p : Reg) (disp : Word) (s : State) : Addr := offsetBy (pointer p s) disp

/-- EA of BX (30_encoding.md R108). -/
def basedIndexedAddr (p x : Reg) (s : State) : Addr := offsetBy (pointer p s) (readWord x s)

/-- Where an operand stands, its effective address computed (30_encoding.md R109). -/
inductive Place where
  | reg (r : Reg)
  | mem (a : Addr)
deriving DecidableEq, Repr

/-- The place of an R, IR, DA or X operand: computed once, before any register is written
(30_encoding.md R109). -/
def place (o : Opd) (s : State) : Place :=
  match o with
  | .reg r => .reg r
  | .mem m => .mem (memAddr m s)

/-- `read_W` at a place (30_encoding.md R109). -/
def readPlace (w : Width) (p : Place) (s : State) : Res (BitVec w.bits) :=
  match p with
  | .reg r => .next (readReg w r s)
  | .mem a => load w a s

/-- `write_W` at a place (30_encoding.md R109). -/
def writePlace (g : Guard) (w : Width) (p : Place) (v : BitVec w.bits) (s : State) : Res State :=
  match p with
  | .reg r => .next (writeReg w r v s)
  | .mem a => store g w a v s

/-- `read_W` of a source operand: IM, R, IR, DA or X (30_encoding.md R101 to R105, R109). -/
def readSrc (w : Width) (src : Src w.bits) (s : State) : Res (BitVec w.bits) :=
  match src with
  | .imm v => .next v
  | .reg r => .next (readReg w r s)
  | .mem m => load w (memAddr m s) s

/-- `read_W` of an R, IR, DA or X operand (30_encoding.md R109). -/
def readOpd (w : Width) (o : Opd) (s : State) : Res (BitVec w.bits) := readPlace w (place o s) s

/-- The word registers of a memory operand's address: the pair of IR, the index of X. -/
def memRegs : Mem → List Reg
  | .ir p => [p, p + 1#4]
  | .dir (.da _) => []
  | .dir (.idx x _) => [x]

/-- The word registers that a register of width W is made of (10_state.md R22, R23). -/
def homes (w : Width) (r : Reg) : List Reg :=
  match w with
  | .byte => [byteHome r]
  | .word => [r]
  | .long => [r, r + 1#4]

/-- The word registers an R, IR, DA or X operand of width W uses. -/
def opdRegs (w : Width) : Opd → List Reg
  | .reg r => homes w r
  | .mem m => memRegs m

/-- The word registers a source operand of width W uses. -/
def srcRegs (w : Width) : Src w.bits → List Reg
  | .imm _ => []
  | .reg r => homes w r
  | .mem m => memRegs m

/-- No register is in both lists. -/
def disjoint (xs ys : List Reg) : Bool := xs.all fun x => !ys.contains x

/-- The lists have no register in common, pairwise. -/
def pairwiseDisjoint : List (List Reg) → Bool
  | [] => true
  | xs :: rest => rest.all (disjoint xs) && pairwiseDisjoint rest

end Sys2Proof.Machine
end

