-- ==== Sys2Proof/Machine/Arithmetic.lean ====
section
/-! DEFINITION. The arithmetic instructions (41_arithmetic.md). -/

namespace Sys2Proof.Machine

/-- `Reg_W[d] <- op(Reg_W[d], b, cin)` with the flags of an addition or subtraction; `dflag` is what the
byte form writes to D (41_arithmetic.md R161, R162, R171, R172). -/
def addSub (w : Width) (op : BitVec w.bits → BitVec w.bits → Bool → Sum w.bits) (cin dflag : Bool) (d : Reg)
    (n : Nat) (b : Res (BitVec w.bits)) (s : State) : Res State :=
  b.andThen fun b =>
  let x := op (readReg w d s) b cin
  .next (advance n (setFcw (s.fcw.setArith w dflag x) (writeReg w d x.r s)))

/-- The flags of `a - b`; nothing else is written (41_arithmetic.md R163). -/
def compare (w : Width) (n : Nat) (a b : Res (BitVec w.bits)) (s : State) : Res State :=
  a.andThen fun a =>
  b.andThen fun b =>
  let x := subW a b false
  .next (advance n (setFcw (s.fcw.setCZSV x.c x.z x.s x.v) s))

/-- `0 - dst` (41_arithmetic.md R170). -/
def negate (w : Width) (dst : Opd) (s : State) : Res State :=
  let p := place dst s
  (readPlace w p s).andThen fun a =>
  let x := subW 0#_ a false
  (writePlace (Guard.after (1 + dst.words) s) w p x.r s).andThen fun s =>
  .next (advance (1 + dst.words) (setFcw (s.fcw.setCZSV x.c x.z x.s x.v) s))

/-- INC and DEC by `n1 + 1`: C is not written (41_arithmetic.md R165, R168). -/
def countOpd (w : Width) (op : BitVec w.bits → BitVec w.bits → Bool → Sum w.bits) (dst : Opd) (n1 : BitVec 4)
    (s : State) : Res State :=
  let p := place dst s
  (readPlace w p s).andThen fun a =>
  let x := op a (BitVec.ofNat w.bits (n1.toNat + 1)) false
  (writePlace (Guard.after (1 + dst.words) s) w p x.r s).andThen fun s =>
  .next (advance (1 + dst.words) (setFcw (s.fcw.setCZSV s.fcw.c x.z x.s x.v) s))

/-- The flags of a signed product in twice `h` bits (41_arithmetic.md R169). -/
def Fcw.setProduct (f : Fcw) (h : Nat) (p : Int) : Fcw :=
  f.setCZSV (decide (p < -(2 ^ (h - 1) : Int) ∨ (2 ^ (h - 1) : Int) ≤ p)) (decide (p = 0)) (decide (p < 0)) false

/-- MULT: the low word of RRd by a word (41_arithmetic.md R169). -/
def multiplyWord (d : Reg) (src : Src 16) (s : State) : Res State :=
  (readSrc .word src s).andThen fun b =>
  let p := (readWord (d + 1#4) s).toInt * BitVec.toInt b
  .next (advance (1 + src.words) (setFcw (s.fcw.setProduct 16 p) (writeLong d (BitVec.ofInt 32 p) s)))

/-- MULTL: the low long of RQd by a long (41_arithmetic.md R169). -/
def multiplyLong (d : Reg) (src : Src 32) (s : State) : Res State :=
  (readSrc .long src s).andThen fun b =>
  let p := (readLong (d + 2#4) s).toInt * BitVec.toInt b
  .next (advance (1 + src.words) (setFcw (s.fcw.setProduct 32 p) (writeQuad d (BitVec.ofInt 64 p) s)))

/-- What a signed division gives (41_arithmetic.md R166). -/
inductive Quotient where
  | byZero
  | overflow
  | fits (q rem : Int)
deriving DecidableEq, Repr

/-- Signed division truncating toward zero, the quotient in `h` bits (41_arithmetic.md R166). -/
def quotient (h : Nat) (n m : Int) : Quotient :=
  if m = 0 then .byZero
  else
    let q := n.tdiv m
    if -(2 ^ (h - 1) : Int) ≤ q ∧ q ≤ 2 ^ (h - 1) - 1 then .fits q (n - q * m) else .overflow

/-- The flags of a division; the free bits are `draw` 1 to 3 (41_arithmetic.md R166). -/
def divideFlags (q : Quotient) (s : State) : Fcw :=
  match q with
  | .byZero => s.fcw.setCZSV false true (drawBit 1 s) true
  | .overflow => s.fcw.setCZSV (drawBit 1 s) (drawBit 2 s) (drawBit 3 s) true
  | .fits q _ => s.fcw.setCZSV false (decide (q = 0)) (decide (q < 0)) false

/-- DIV: RRd by a word; quotient in the low word, remainder in the high word (41_arithmetic.md R166). -/
def divideWord (d : Reg) (src : Src 16) (s : State) : Res State :=
  (readSrc .word src s).andThen fun b =>
  let q := quotient 16 (readLong d s).toInt (BitVec.toInt b)
  let t :=
    match q with
    | .byZero => s
    | .overflow => writeLong d ((draw 0 s).extractLsb' 0 32) s
    | .fits q rem => writeLong d (BitVec.ofInt 16 rem ++ BitVec.ofInt 16 q) s
  .next (advance (1 + src.words) (spend 4 (setFcw (divideFlags q s) t)))

/-- DIVL: RQd by a long (41_arithmetic.md R166). -/
def divideLong (d : Reg) (src : Src 32) (s : State) : Res State :=
  (readSrc .long src s).andThen fun b =>
  let q := quotient 32 (readQuad d s).toInt (BitVec.toInt b)
  let t :=
    match q with
    | .byZero => s
    | .overflow => writeQuad d (draw 0 s) s
    | .fits q rem => writeQuad d (BitVec.ofInt 32 rem ++ BitVec.ofInt 32 q) s
  .next (advance (1 + src.words) (spend 4 (setFcw (divideFlags q s) t)))

/-- DAB: corrects by the table; outside it the byte, C, Z and S are free (41_arithmetic.md R164). -/
def decimalAdjust (d : Reg) (s : State) : Res State :=
  let v := readByte d s
  .next <| advance 1 <| spend 4 <|
    match dabLookup v s.fcw.d s.fcw.c s.fcw.h with
    | some (k, c) => setFcw (s.fcw.setCZSV c (decide (v + k = 0#8)) (v + k).msb s.fcw.pv) (writeByte d (v + k) s)
    | none =>
      setFcw (s.fcw.setCZSV (drawBit 1 s) (drawBit 2 s) (drawBit 3 s) s.fcw.pv)
        (writeByte d ((draw 0 s).extractLsb' 0 8) s)

/-- ADDB Rbd,src (41_arithmetic.md R162). -/
def execAddb (d : Reg) (src : Src 8) (st : State) : Res State :=
  addSub .byte addW false false d (1 + src.words) (readSrc .byte src st) st

/-- ADD Rd,src (41_arithmetic.md R162). -/
def execAdd (d : Reg) (src : Src 16) (st : State) : Res State :=
  addSub .word addW false false d (1 + src.words) (readSrc .word src st) st

/-- ADDL RRd,src (41_arithmetic.md R162). -/
def execAddl (d : Reg) (src : Src 32) (st : State) : Res State :=
  addSub .long addW false false d (1 + src.words) (readSrc .long src st) st

/-- SUBB Rbd,src (41_arithmetic.md R172). -/
def execSubb (d : Reg) (src : Src 8) (st : State) : Res State :=
  addSub .byte subW false true d (1 + src.words) (readSrc .byte src st) st

/-- SUB Rd,src (41_arithmetic.md R172). -/
def execSub (d : Reg) (src : Src 16) (st : State) : Res State :=
  addSub .word subW false true d (1 + src.words) (readSrc .word src st) st

/-- SUBL RRd,src (41_arithmetic.md R172). -/
def execSubl (d : Reg) (src : Src 32) (st : State) : Res State :=
  addSub .long subW false true d (1 + src.words) (readSrc .long src st) st

/-- CPB Rbd,src (41_arithmetic.md R163). -/
def execCpb (d : Reg) (src : Src 8) (st : State) : Res State :=
  compare .byte (1 + src.words) (.next (readReg .byte d st)) (readSrc .byte src st) st

/-- CP Rd,src (41_arithmetic.md R163). -/
def execCp (d : Reg) (src : Src 16) (st : State) : Res State :=
  compare .word (1 + src.words) (.next (readReg .word d st)) (readSrc .word src st) st

/-- CPL RRd,src (41_arithmetic.md R163). -/
def execCpl (d : Reg) (src : Src 32) (st : State) : Res State :=
  compare .long (1 + src.words) (.next (readReg .long d st)) (readSrc .long src st) st

/-- MULT RRd,src (41_arithmetic.md R169). -/
def execMult (d : Reg) (src : Src 16) (st : State) : Res State :=
  multiplyWord d src st

/-- MULTL RQd,src (41_arithmetic.md R169). -/
def execMultl (d : Reg) (src : Src 32) (st : State) : Res State :=
  multiplyLong d src st

/-- DIV RRd,src (41_arithmetic.md R166). -/
def execDiv (d : Reg) (src : Src 16) (st : State) : Res State :=
  divideWord d src st

/-- DIVL RQd,src (41_arithmetic.md R166). -/
def execDivl (d : Reg) (src : Src 32) (st : State) : Res State :=
  divideLong d src st

/-- NEGB dst (41_arithmetic.md R170). -/
def execNegb (dst : Opd) (st : State) : Res State :=
  negate .byte dst st

/-- NEG dst (41_arithmetic.md R170). -/
def execNeg (dst : Opd) (st : State) : Res State :=
  negate .word dst st

/-- CPB dst,#imm (41_arithmetic.md R163). -/
def execCpbImm (dst : Mem) (v : Byte) (st : State) : Res State :=
  compare .byte (2 + dst.words) (load .byte (memAddr dst st) st) (.next v) st

/-- CP dst,#imm (41_arithmetic.md R163). -/
def execCpImm (dst : Mem) (v : Word) (st : State) : Res State :=
  compare .word (2 + dst.words) (load .word (memAddr dst st) st) (.next v) st

/-- INCB dst,#n (41_arithmetic.md R168). -/
def execIncb (dst : Opd) (n1 : BitVec 4) (st : State) : Res State :=
  countOpd .byte addW dst n1 st

/-- INC dst,#n (41_arithmetic.md R168). -/
def execInc (dst : Opd) (n1 : BitVec 4) (st : State) : Res State :=
  countOpd .word addW dst n1 st

/-- DECB dst,#n (41_arithmetic.md R165). -/
def execDecb (dst : Opd) (n1 : BitVec 4) (st : State) : Res State :=
  countOpd .byte subW dst n1 st

/-- DEC dst,#n (41_arithmetic.md R165). -/
def execDec (dst : Opd) (n1 : BitVec 4) (st : State) : Res State :=
  countOpd .word subW dst n1 st

/-- DAB Rbd (41_arithmetic.md R164). -/
def execDab (d : Reg) (st : State) : Res State :=
  decimalAdjust d st

/-- EXTSB Rd (41_arithmetic.md R167). -/
def execExtsb (d : Reg) (st : State) : Res State :=
  .next (advance 1 (writeWord d (BitVec.signExtend 16 ((readWord d st).extractLsb' 0 8)) st))

/-- EXTS RRd (41_arithmetic.md R167). -/
def execExts (d : Reg) (st : State) : Res State :=
  .next (advance 1 (writeLong d ((readWord (d + 1#4) st).signExtend 32) st))

/-- EXTSL RQd (41_arithmetic.md R167). -/
def execExtsl (d : Reg) (st : State) : Res State :=
  .next (advance 1 (writeQuad d ((readLong (d + 2#4) st).signExtend 64) st))

/-- ADCB Rbd,Rbs (41_arithmetic.md R161). -/
def execAdcb (d s : Reg) (st : State) : Res State :=
  addSub .byte addW st.fcw.c false d 1 (.next (readReg .byte s st)) st

/-- ADC Rd,Rs (41_arithmetic.md R161). -/
def execAdc (d s : Reg) (st : State) : Res State :=
  addSub .word addW st.fcw.c false d 1 (.next (readReg .word s st)) st

/-- SBCB Rbd,Rbs (41_arithmetic.md R171). -/
def execSbcb (d s : Reg) (st : State) : Res State :=
  addSub .byte subW st.fcw.c true d 1 (.next (readReg .byte s st)) st

/-- SBC Rd,Rs (41_arithmetic.md R171). -/
def execSbc (d s : Reg) (st : State) : Res State :=
  addSub .word subW st.fcw.c true d 1 (.next (readReg .word s st)) st

end Sys2Proof.Machine
end

