-- ==== Sys2Proof/Machine/Block.lean ====
section
/-! DEFINITION. The block transfer, string compare and translate instructions (45_block_string.md): every
one is one iteration per step (R236). `up` tells I from D, `rep` the repeating form. -/

namespace Sys2Proof.Machine

/-- The step of a pointer: one element up or down (45_block_string.md R235). -/
def blockStep (w : Width) (up : Bool) : Word :=
  if up then BitVec.ofNat 16 w.bytes else -(BitVec.ofNat 16 w.bytes)

/-- The guarded bytes: a repeating instruction must not store into its own words either
(45_block_string.md R236). -/
def blockGuard (rep : Bool) (s : State) : Guard := if rep then Guard.repeating s else Guard.after 2 s

/-- The end of an iteration: the PC stays at a repeating instruction that has not terminated
(45_block_string.md R236). -/
def endIteration (rep done : Bool) (s : State) : State := if rep && !done then s else advance 2 s

/-- `R[r] <- R[r] - 1` (45_block_string.md R235). -/
def countDown (r : Reg) (s : State) : State := writeWord r (readWord r s - 1#16) s

/-- The count after this iteration is zero (45_block_string.md R235). -/
def countEnds (r : Reg) (s : State) : Bool := decide (readWord r s - 1#16 = 0#16)

/-- The flags of a block compare: Z the hit, P/V the end of the count, C and S free
(45_block_string.md R237). -/
def compareFlags (hit ends : Bool) (s : State) : Fcw := s.fcw.setCZSV (drawBit 0 s) hit (drawBit 1 s) ends

/-- `compare_step` of CPI, CPD and their repeating forms (45_block_string.md R237 to R240). -/
def compareBlock (w : Width) (up rep : Bool) (d p r : Reg) (cc : CC) (s : State) : Res State :=
  if pairwiseDisjoint [[p, p + 1#4], [r], homes w d] = false then .refused .blockOverlap
  else
    (load w (pointer p s) s).andThen fun m =>
    let x := subW (readReg w d s) m false
    let hit := condOn cc x.c x.z x.s x.v
    let ends := countEnds r s
    .next (endIteration rep (hit || ends) (spend 2 (setFcw (compareFlags hit ends s)
      (countDown r (stepPointer p (blockStep w up) s)))))

/-- `string_compare_step` of CPSI, CPSD and their repeating forms (45_block_string.md R241 to R244). -/
def compareStrings (w : Width) (up rep : Bool) (d p r : Reg) (cc : CC) (s : State) : Res State :=
  if pairwiseDisjoint [[d, d + 1#4], [p, p + 1#4], [r]] = false then .refused .blockOverlap
  else
    (load w (pointer d s) s).andThen fun a =>
    (load w (pointer p s) s).andThen fun m =>
    let x := subW a m false
    let hit := condOn cc x.c x.z x.s x.v
    let ends := countEnds r s
    .next (endIteration rep (hit || ends) (spend 2 (setFcw (compareFlags hit ends s)
      (countDown r (stepPointer p (blockStep w up) (stepPointer d (blockStep w up) s))))))

/-- `load_step` of LDI, LDD and their repeating forms: Z is free (45_block_string.md R245 to R248). -/
def moveBlock (w : Width) (up rep : Bool) (d p r : Reg) (s : State) : Res State :=
  if pairwiseDisjoint [[d, d + 1#4], [p, p + 1#4], [r]] = false then .refused .blockOverlap
  else
    (load w (pointer p s) s).andThen fun v =>
    (store (blockGuard rep s) w (pointer d s) v s).andThen fun t =>
    let ends := countEnds r s
    .next (endIteration rep ends (spend 1 (setFcw ((s.fcw.setZ (drawBit 0 s)).setPV ends)
      (countDown r (stepPointer p (blockStep w up) (stepPointer d (blockStep w up) t))))))

/-- `translate_step` of TRIB, TRDB and their repeating forms: Z and RH1 are free
(45_block_string.md R249 to R252). -/
def translate (up rep : Bool) (d p r : Reg) (s : State) : Res State :=
  if pairwiseDisjoint [[d, d + 1#4], [p, p + 1#4], [r], [1#4]] = false then .refused .blockOverlap
  else
    (load .byte (pointer d s) s).andThen fun b =>
    (load .byte (offsetBy (pointer p s) (BitVec.setWidth 16 b)) s).andThen fun t =>
    (store (blockGuard rep s) .byte (pointer d s) t s).andThen fun u =>
    let ends := countEnds r s
    .next (endIteration rep ends (spend 2 (setFcw ((s.fcw.setZ (drawBit 0 s)).setPV ends)
      (writeByte 1#4 ((draw 1 s).extractLsb' 0 8) (countDown r (stepPointer d (blockStep .byte up) u))))))

/-- `translate_test_step` of TRTIB, TRTDB and their repeating forms, which end on a nonzero table entry or
at the end of the count (45_block_string.md R253 to R256). -/
def translateTest (up rep : Bool) (d p r : Reg) (s : State) : Res State :=
  if pairwiseDisjoint [[d, d + 1#4], [p, p + 1#4], [r], [1#4]] = false then .refused .blockOverlap
  else
    (load .byte (pointer d s) s).andThen fun b =>
    (load .byte (offsetBy (pointer p s) (BitVec.setWidth 16 b)) s).andThen fun t =>
    let z := decide (t = 0#8)
    let ends := countEnds r s
    .next (endIteration rep (!z || ends) (setFcw ((s.fcw.setZ z).setPV ends)
      (countDown r (stepPointer d (blockStep .byte up) (writeByte 1#4 t s)))))

/-- TRIB @RRd,@RRs,r (45_block_string.md R251). -/
def execTrib (d s r : Reg) (st : State) : Res State :=
  translate true false d s r st

/-- TRIRB @RRd,@RRs,r (45_block_string.md R252). -/
def execTrirb (d s r : Reg) (st : State) : Res State :=
  translate true true d s r st

/-- TRDB @RRd,@RRs,r (45_block_string.md R249). -/
def execTrdb (d s r : Reg) (st : State) : Res State :=
  translate false false d s r st

/-- TRDRB @RRd,@RRs,r (45_block_string.md R250). -/
def execTrdrb (d s r : Reg) (st : State) : Res State :=
  translate false true d s r st

/-- TRTIB @RRd,@RRs,r (45_block_string.md R255). -/
def execTrtib (d s r : Reg) (st : State) : Res State :=
  translateTest true false d s r st

/-- TRTIRB @RRd,@RRs,r (45_block_string.md R256). -/
def execTrtirb (d s r : Reg) (st : State) : Res State :=
  translateTest true true d s r st

/-- TRTDB @RRd,@RRs,r (45_block_string.md R253). -/
def execTrtdb (d s r : Reg) (st : State) : Res State :=
  translateTest false false d s r st

/-- TRTDRB @RRd,@RRs,r (45_block_string.md R254). -/
def execTrtdrb (d s r : Reg) (st : State) : Res State :=
  translateTest false true d s r st

/-- CPIB Rbd,@RRs,r,cc (45_block_string.md R239). -/
def execCpib (d s r : Reg) (cc : CC) (st : State) : Res State :=
  compareBlock .byte true false d s r cc st

/-- CPI Rd,@RRs,r,cc (45_block_string.md R239). -/
def execCpi (d s r : Reg) (cc : CC) (st : State) : Res State :=
  compareBlock .word true false d s r cc st

/-- CPIRB Rbd,@RRs,r,cc (45_block_string.md R240). -/
def execCpirb (d s r : Reg) (cc : CC) (st : State) : Res State :=
  compareBlock .byte true true d s r cc st

/-- CPIR Rd,@RRs,r,cc (45_block_string.md R240). -/
def execCpir (d s r : Reg) (cc : CC) (st : State) : Res State :=
  compareBlock .word true true d s r cc st

/-- CPDB Rbd,@RRs,r,cc (45_block_string.md R237). -/
def execCpdb (d s r : Reg) (cc : CC) (st : State) : Res State :=
  compareBlock .byte false false d s r cc st

/-- CPD Rd,@RRs,r,cc (45_block_string.md R237). -/
def execCpd (d s r : Reg) (cc : CC) (st : State) : Res State :=
  compareBlock .word false false d s r cc st

/-- CPDRB Rbd,@RRs,r,cc (45_block_string.md R238). -/
def execCpdrb (d s r : Reg) (cc : CC) (st : State) : Res State :=
  compareBlock .byte false true d s r cc st

/-- CPDR Rd,@RRs,r,cc (45_block_string.md R238). -/
def execCpdr (d s r : Reg) (cc : CC) (st : State) : Res State :=
  compareBlock .word false true d s r cc st

/-- CPSIB @RRd,@RRs,r,cc (45_block_string.md R243). -/
def execCpsib (d s r : Reg) (cc : CC) (st : State) : Res State :=
  compareStrings .byte true false d s r cc st

/-- CPSI @RRd,@RRs,r,cc (45_block_string.md R243). -/
def execCpsi (d s r : Reg) (cc : CC) (st : State) : Res State :=
  compareStrings .word true false d s r cc st

/-- CPSIRB @RRd,@RRs,r,cc (45_block_string.md R244). -/
def execCpsirb (d s r : Reg) (cc : CC) (st : State) : Res State :=
  compareStrings .byte true true d s r cc st

/-- CPSIR @RRd,@RRs,r,cc (45_block_string.md R244). -/
def execCpsir (d s r : Reg) (cc : CC) (st : State) : Res State :=
  compareStrings .word true true d s r cc st

/-- CPSDB @RRd,@RRs,r,cc (45_block_string.md R241). -/
def execCpsdb (d s r : Reg) (cc : CC) (st : State) : Res State :=
  compareStrings .byte false false d s r cc st

/-- CPSD @RRd,@RRs,r,cc (45_block_string.md R241). -/
def execCpsd (d s r : Reg) (cc : CC) (st : State) : Res State :=
  compareStrings .word false false d s r cc st

/-- CPSDRB @RRd,@RRs,r,cc (45_block_string.md R242). -/
def execCpsdrb (d s r : Reg) (cc : CC) (st : State) : Res State :=
  compareStrings .byte false true d s r cc st

/-- CPSDR @RRd,@RRs,r,cc (45_block_string.md R242). -/
def execCpsdr (d s r : Reg) (cc : CC) (st : State) : Res State :=
  compareStrings .word false true d s r cc st

/-- LDIB @RRd,@RRs,r (45_block_string.md R247). -/
def execLdib (d s r : Reg) (st : State) : Res State :=
  moveBlock .byte true false d s r st

/-- LDI @RRd,@RRs,r (45_block_string.md R247). -/
def execLdi (d s r : Reg) (st : State) : Res State :=
  moveBlock .word true false d s r st

/-- LDIRB @RRd,@RRs,r (45_block_string.md R248). -/
def execLdirb (d s r : Reg) (st : State) : Res State :=
  moveBlock .byte true true d s r st

/-- LDIR @RRd,@RRs,r (45_block_string.md R248). -/
def execLdir (d s r : Reg) (st : State) : Res State :=
  moveBlock .word true true d s r st

/-- LDDB @RRd,@RRs,r (45_block_string.md R245). -/
def execLddb (d s r : Reg) (st : State) : Res State :=
  moveBlock .byte false false d s r st

/-- LDD @RRd,@RRs,r (45_block_string.md R245). -/
def execLdd (d s r : Reg) (st : State) : Res State :=
  moveBlock .word false false d s r st

/-- LDDRB @RRd,@RRs,r (45_block_string.md R246). -/
def execLddrb (d s r : Reg) (st : State) : Res State :=
  moveBlock .byte false true d s r st

/-- LDDR @RRd,@RRs,r (45_block_string.md R246). -/
def execLddr (d s r : Reg) (st : State) : Res State :=
  moveBlock .word false true d s r st

end Sys2Proof.Machine
end

