-- ==== Sys2Proof/Machine/Control.lean ====
section
/-! DEFINITION. The program control instructions (44_program_control.md). -/

namespace Sys2Proof.Machine

/-- CALL and CALR of `n` words: pushes `next_pc` on the current stack and jumps (44_program_control.md R222,
R223). -/
def callTo (n : Nat) (target : Addr) (s : State) : Res State :=
  let t := stepPointer 14#4 (-4#16) s
  (store (Guard.after n s) .long (pointer 14#4 t) (longOf (nextPc n s) (draw 0 s)) t).andThen fun t =>
  .next (jumpTo target (spend 1 t))

/-- RET: pops the PC from the current stack (44_program_control.md R227). -/
def popReturn (s : State) : Res State :=
  (load .long (pointer 14#4 s) s).andThen fun v => .next (jumpTo (addrOf v) (stepPointer 14#4 4#16 s))

/-- DJNZ and DBJNZ: counts down, and jumps back while the count is not zero (44_program_control.md R224). -/
def countAndJump (w : Width) (r : Reg) (p : BitVec 7) (s : State) : State :=
  let v := readReg w r s - 1#_
  let t := writeReg w r v s
  if v = 0#_ then advance 1 t else jumpTo (offsetBy (nextPc 1 s) (-(2#16 * p.setWidth 16))) t

/-- JP cc,dst (44_program_control.md R225). -/
def execJp (cc : CC) (dst : Mem) (st : State) : Res State :=
  .next (if cond cc st.fcw then jumpTo (memAddr dst st) st else advance (1 + dst.words) st)

/-- CALL dst (44_program_control.md R222). -/
def execCall (dst : Mem) (st : State) : Res State :=
  callTo (1 + dst.words) (memAddr dst st) st

/-- RET cc (44_program_control.md R227). -/
def execRet (cc : CC) (st : State) : Res State :=
  if cond cc st.fcw then popReturn st else .next (advance 1 st)

/-- CALR disp12 (44_program_control.md R223). -/
def execCalr (p : BitVec 12) (st : State) : Res State :=
  callTo 1 (offsetBy (nextPc 1 st) (-(2#16 * p.signExtend 16))) st

/-- JR cc,disp8 (44_program_control.md R226). -/
def execJr (cc : CC) (p : Byte) (st : State) : Res State :=
  .next (if cond cc st.fcw
  then jumpTo (offsetBy (nextPc 1 st) (2#16 * p.signExtend 16)) st
  else advance 1 st)

/-- DBJNZ Rbr,disp7 (44_program_control.md R224). -/
def execDbjnz (r : Reg) (p : BitVec 7) (st : State) : Res State :=
  .next (countAndJump .byte r p st)

/-- DJNZ Rr,disp7 (44_program_control.md R224). -/
def execDjnz (r : Reg) (p : BitVec 7) (st : State) : Res State :=
  .next (countAndJump .word r p st)

end Sys2Proof.Machine
end

