-- ==== Sys2Proof/Machine/CpuControl.lean ====
section
/-! DEFINITION. The CPU control instructions (47_cpu_control.md) and the extended-instruction opcodes
(60_exceptions.md R334). -/

namespace Sys2Proof.Machine

/-- Changes the flags C, Z, S, P/V; `named` has bit 3 = C, 2 = Z, 1 = S, 0 = P/V (47_cpu_control.md R291,
R307, R309). -/
def changeFlags (op : Bool → Bool → Bool) (named : BitVec 4) (s : State) : State :=
  setFcw (s.fcw.setCZSV (op s.fcw.c (named.getLsbD 3)) (op s.fcw.z (named.getLsbD 2)) (op s.fcw.s (named.getLsbD 1))
    (op s.fcw.pv (named.getLsbD 0))) s

/-- Writes the enables that are named (47_cpu_control.md R292, R293). -/
def setEnables (on vi nvi : Bool) (s : State) : State :=
  setFcw { s.fcw with vie := if vi then on else s.fcw.vie, nvie := if nvi then on else s.fcw.nvie } s

/-- What LDCTL reads: reserved bits and the refresh counter are free (47_cpu_control.md R297). -/
def readControl (c : Ctl) (s : State) : Word :=
  match c with
  | .fcw => s.fcw.toWord (reservedBits (draw 0 s))
  | .refresh => s.refresh.extractLsb' 9 7 ++ (draw 0 s).extractLsb' 0 9
  | .psapseg => segmentWord s.psap.seg (draw 0 s)
  | .psapoff => s.psap.off
  | .nspseg => s.r14n
  | .nspoff => s.r15n

/-- What LDCTL writes (47_cpu_control.md R297). -/
def writeControl (c : Ctl) (v : Word) (s : State) : Res State :=
  match c with
  | .fcw => writeFcw v s
  | .refresh => .next { s with refresh := v }
  | .psapseg => .next { s with psap := { s.psap with seg := v.extractLsb' 8 7 } }
  | .psapoff => .next { s with psap := { s.psap with off := v } }
  | .nspseg => .next { s with r14n := v }
  | .nspoff => .next { s with r15n := v }

/-- LDPS from the block at `a`; its first word is read and discarded (47_cpu_control.md R300; log 16). -/
def loadProgramStatus (a : Addr) (s : State) : Res State :=
  (load .word a s).andThen fun _ =>
  (load .word (offsetBy a 2#16) s).andThen fun f =>
  (load .long (offsetBy a 4#16) s).andThen fun p =>
  (writeFcw f s).andThen fun s =>
  .next (jumpTo (addrOf p) s)

/-- The `k`-th read of the /Mi pin in this step (47_cpu_control.md R301; log 6). -/
def readMi (k : Nat) (s : State) : Bool := Config.miPin (s.draws + k)

/-- MBIT: S is /Mi, the other flags are free (47_cpu_control.md R302). -/
def testMi (s : State) : State :=
  spend 5 (setFcw
    { s.fcw with
      s := readMi 0 s
      c := drawBit 0 s
      z := drawBit 1 s
      pv := drawBit 2 s
      d := drawBit 3 s
      h := drawBit 4 s } s)

/-- MREQ: asserts /Mo and clears Rd when /Mi is not asserted, and withdraws /Mo when /Mi does not then
become asserted (47_cpu_control.md R303). -/
def requestMulti (d : Reg) (s : State) : State :=
  let made := !readMi 0 s
  let granted := made && readMi 1 s
  let t := if made then { writeWord d 0#16 s with mo := granted } else s
  spend 2 (setFcw { s.fcw with z := made, s := granted } t)

/-- An extended-instruction opcode: traps with EPA = 0; with EPA = 1 no unit is modelled
(60_exceptions.md R334). -/
def extendedOpcode (i : Instr) (s : State) : Res State :=
  if s.fcw.epa then .refused .epuPresent else extendedTrap i s

/-- LDCTLB Rbd,FLAGS (47_cpu_control.md R298). -/
def execLdctlbRead (d : Reg) (st : State) : Res State :=
  .next (advance 1 (spend 1 (writeByte d (st.fcw.flags ((draw 0 st).extractLsb' 0 2)) st)))

/-- LDCTLB FLAGS,Rbs (47_cpu_control.md R298). -/
def execLdctlbWrite (s : Reg) (st : State) : Res State :=
  .next (advance 1 (setFcw (st.fcw.withFlags (readByte s st)) st))

/-- SETFLG flags (47_cpu_control.md R309). -/
def execSetflg (f : BitVec 4) (st : State) : Res State :=
  .next (advance 1 (changeFlags (fun old named => old || named) f st))

/-- RESFLG flags (47_cpu_control.md R307). -/
def execResflg (f : BitVec 4) (st : State) : Res State :=
  .next (advance 1 (changeFlags (fun old named => old && !named) f st))

/-- COMFLG flags (47_cpu_control.md R291). -/
def execComflg (f : BitVec 4) (st : State) : Res State :=
  .next (advance 1 (changeFlags (fun old named => old ^^ named) f st))

/-- NOP (47_cpu_control.md R306). -/
def execNop (st : State) : Res State :=
  .next (advance 1 st)

/-- LDPS src (47_cpu_control.md R300). -/
def execLdps (src : Mem) (st : State) : Res State :=
  privileged (.ldps src) st (loadProgramStatus (memAddr src st) st)

/-- HALT (47_cpu_control.md R294). -/
def execHalt (st : State) : Res State :=
  privileged (.halt) st (.next { advance 1 st with halted := true })

/-- IRET (47_cpu_control.md R296). -/
def execIret (st : State) : Res State :=
  privileged (.iret) st (returnFromTrap st)

/-- MSET (47_cpu_control.md R305). -/
def execMset (st : State) : Res State :=
  privileged (.mset) st (.next (advance 1 { st with mo := true }))

/-- MRES (47_cpu_control.md R304). -/
def execMres (st : State) : Res State :=
  privileged (.mres) st (.next (advance 1 { st with mo := false }))

/-- MBIT (47_cpu_control.md R302). -/
def execMbit (st : State) : Res State :=
  privileged (.mbit) st (.next (advance 1 (testMi st)))

/-- MREQ Rd (47_cpu_control.md R303). -/
def execMreq (d : Reg) (st : State) : Res State :=
  privileged (.mreq d) st (.next (advance 1 (requestMulti d st)))

/-- DI ints; true = named (47_cpu_control.md R292). -/
def execDi (vi nvi : Bool) (st : State) : Res State :=
  privileged (.di vi nvi) st (.next (advance 1 (setEnables false vi nvi st)))

/-- EI ints; true = named (47_cpu_control.md R293). -/
def execEi (vi nvi : Bool) (st : State) : Res State :=
  privileged (.ei vi nvi) st (.next (advance 1 (setEnables true vi nvi st)))

/-- LDCTL Rd,ctl (47_cpu_control.md R297). -/
def execLdctlRead (d : Reg) (c : Ctl) (st : State) : Res State :=
  privileged (.ldctlRead d c) st (.next (advance 1 (spend 1 (writeWord d (readControl c st) st))))

/-- LDCTL ctl,Rs (47_cpu_control.md R297). -/
def execLdctlWrite (c : Ctl) (s : Reg) (st : State) : Res State :=
  privileged (.ldctlWrite c s) st ((writeControl c (readWord s st) st).andThen fun t => .next (advance 1 t))

/-- SC #n (47_cpu_control.md R308). -/
def execSc (n : Byte) (st : State) : Res State :=
  if st.fcw.sn = false ∧ Config.scPrivileged = true
  then privilegedTrap (.sc n) st
  else systemCallTrap (.sc n) st

/-- EPU_0E (60_exceptions.md R334). -/
def execEpu0E (lo : Byte) (w2 : Word) (st : State) : Res State :=
  extendedOpcode (.epu0E lo w2) st

/-- EPU_0F (60_exceptions.md R334). -/
def execEpu0F (lo : Byte) (w2 : Word) (st : State) : Res State :=
  extendedOpcode (.epu0F lo w2) st

/-- EPU_4E (60_exceptions.md R334). -/
def execEpu4E (lo : Byte) (w2 : Word) (st : State) : Res State :=
  extendedOpcode (.epu4E lo w2) st

/-- EPU_4F (60_exceptions.md R334). -/
def execEpu4F (lo : Byte) (w2 : Word) (st : State) : Res State :=
  extendedOpcode (.epu4F lo w2) st

/-- EPU_8E (60_exceptions.md R334). -/
def execEpu8E (lo : Byte) (w2 : Word) (st : State) : Res State :=
  extendedOpcode (.epu8E lo w2) st

/-- EPU_8F (60_exceptions.md R334). -/
def execEpu8F (lo : Byte) (w2 : Word) (st : State) : Res State :=
  extendedOpcode (.epu8F lo w2) st

end Sys2Proof.Machine
end

