-- ==== Sys2Proof/Machine/InputOutput.lean ====
section
/-! DEFINITION. The input and output instructions, all privileged (46_input_output.md). -/

namespace Sys2Proof.Machine

/-- `Reg_W[d] <- IoRead` (46_input_output.md R267). -/
def inputReg (w : Width) (sp : Space) (port : Word) (d : Reg) (n : Nat) (s : State) : Res State :=
  .next (advance n (writeReg w d (portValue sp port w s) (ioRead sp port w s)))

/-- `IoWrite(Reg_W[s])` (46_input_output.md R274). -/
def outputReg (w : Width) (sp : Space) (port : Word) (r : Reg) (n : Nat) (s : State) : Res State :=
  .next (advance n (ioWrite sp port w (readReg w r s) s))

/-- `input_step`: memory pointer RRd, port register Rp, count Rr; Z is free (46_input_output.md R268 to R271;
the port register counts among the registers that must not overlap, log 13). -/
def inputBlock (w : Width) (sp : Space) (up rep : Bool) (d p r : Reg) (s : State) : Res State :=
  if pairwiseDisjoint [[d, d + 1#4], [p], [r]] = false then .refused .blockOverlap
  else
    let port := readWord p s
    (store (blockGuard rep s) w (pointer d s) (portValue sp port w s) (ioRead sp port w s)).andThen fun t =>
    let ends := countEnds r s
    .next (endIteration rep ends (spend 1 (setFcw ((s.fcw.setZ (drawBit 0 s)).setPV ends)
      (countDown r (stepPointer d (blockStep w up) t)))))

/-- `output_step`: port register Rd, memory pointer RRp, count Rr; Z is free (46_input_output.md R272, R273,
R275, R276; log 13). -/
def outputBlock (w : Width) (sp : Space) (up rep : Bool) (d p r : Reg) (s : State) : Res State :=
  if pairwiseDisjoint [[d], [p, p + 1#4], [r]] = false then .refused .blockOverlap
  else
    (load w (pointer p s) s).andThen fun v =>
    let ends := countEnds r s
    .next (endIteration rep ends (spend 1 (setFcw ((s.fcw.setZ (drawBit 0 s)).setPV ends)
      (countDown r (stepPointer p (blockStep w up) (ioWrite sp (readWord d s) w v s))))))

/-- INB Rbd,@Rs (46_input_output.md R267). -/
def execInbInd (d p : Reg) (st : State) : Res State :=
  privileged (.inbInd d p) st (inputReg .byte .standard (readWord p st) d 1 st)

/-- IN Rd,@Rs (46_input_output.md R267). -/
def execInInd (d p : Reg) (st : State) : Res State :=
  privileged (.inInd d p) st (inputReg .word .standard (readWord p st) d 1 st)

/-- OUTB @Rd,Rbs (46_input_output.md R274). -/
def execOutbInd (p s : Reg) (st : State) : Res State :=
  privileged (.outbInd p s) st (outputReg .byte .standard (readWord p st) s 1 st)

/-- OUT @Rd,Rs (46_input_output.md R274). -/
def execOutInd (p s : Reg) (st : State) : Res State :=
  privileged (.outInd p s) st (outputReg .word .standard (readWord p st) s 1 st)

/-- IN Rd,port (46_input_output.md R267). -/
def execIn (d : Reg) (port : Word) (st : State) : Res State :=
  privileged (.in_ d port) st (inputReg .word .standard port d 2 st)

/-- INB Rbd,port (46_input_output.md R267). -/
def execInb (d : Reg) (port : Word) (st : State) : Res State :=
  privileged (.inb d port) st (inputReg .byte .standard port d 2 st)

/-- SIN Rd,port (46_input_output.md R267). -/
def execSin (d : Reg) (port : Word) (st : State) : Res State :=
  privileged (.sin d port) st (inputReg .word .special port d 2 st)

/-- SINB Rbd,port (46_input_output.md R267). -/
def execSinb (d : Reg) (port : Word) (st : State) : Res State :=
  privileged (.sinb d port) st (inputReg .byte .special port d 2 st)

/-- OUT port,Rs (46_input_output.md R274). -/
def execOut (port : Word) (s : Reg) (st : State) : Res State :=
  privileged (.out port s) st (outputReg .word .standard port s 2 st)

/-- OUTB port,Rbs (46_input_output.md R274). -/
def execOutb (port : Word) (s : Reg) (st : State) : Res State :=
  privileged (.outb port s) st (outputReg .byte .standard port s 2 st)

/-- SOUT port,Rs (46_input_output.md R274). -/
def execSout (port : Word) (s : Reg) (st : State) : Res State :=
  privileged (.sout port s) st (outputReg .word .special port s 2 st)

/-- SOUTB port,Rbs (46_input_output.md R274). -/
def execSoutb (port : Word) (s : Reg) (st : State) : Res State :=
  privileged (.soutb port s) st (outputReg .byte .special port s 2 st)

/-- INI @RRd,@Rs,r (46_input_output.md R270). -/
def execIni (d s r : Reg) (st : State) : Res State :=
  privileged (.ini d s r) st (inputBlock .word .standard true false d s r st)

/-- INIB @RRd,@Rs,r (46_input_output.md R270). -/
def execInib (d s r : Reg) (st : State) : Res State :=
  privileged (.inib d s r) st (inputBlock .byte .standard true false d s r st)

/-- SINI @RRd,@Rs,r (46_input_output.md R270). -/
def execSini (d s r : Reg) (st : State) : Res State :=
  privileged (.sini d s r) st (inputBlock .word .special true false d s r st)

/-- SINIB @RRd,@Rs,r (46_input_output.md R270). -/
def execSinib (d s r : Reg) (st : State) : Res State :=
  privileged (.sinib d s r) st (inputBlock .byte .special true false d s r st)

/-- INIR @RRd,@Rs,r (46_input_output.md R271). -/
def execInir (d s r : Reg) (st : State) : Res State :=
  privileged (.inir d s r) st (inputBlock .word .standard true true d s r st)

/-- INIRB @RRd,@Rs,r (46_input_output.md R271). -/
def execInirb (d s r : Reg) (st : State) : Res State :=
  privileged (.inirb d s r) st (inputBlock .byte .standard true true d s r st)

/-- SINIR @RRd,@Rs,r (46_input_output.md R271). -/
def execSinir (d s r : Reg) (st : State) : Res State :=
  privileged (.sinir d s r) st (inputBlock .word .special true true d s r st)

/-- SINIRB @RRd,@Rs,r (46_input_output.md R271). -/
def execSinirb (d s r : Reg) (st : State) : Res State :=
  privileged (.sinirb d s r) st (inputBlock .byte .special true true d s r st)

/-- IND @RRd,@Rs,r (46_input_output.md R268). -/
def execInd (d s r : Reg) (st : State) : Res State :=
  privileged (.ind d s r) st (inputBlock .word .standard false false d s r st)

/-- INDB @RRd,@Rs,r (46_input_output.md R268). -/
def execIndb (d s r : Reg) (st : State) : Res State :=
  privileged (.indb d s r) st (inputBlock .byte .standard false false d s r st)

/-- SIND @RRd,@Rs,r (46_input_output.md R268). -/
def execSind (d s r : Reg) (st : State) : Res State :=
  privileged (.sind d s r) st (inputBlock .word .special false false d s r st)

/-- SINDB @RRd,@Rs,r (46_input_output.md R268). -/
def execSindb (d s r : Reg) (st : State) : Res State :=
  privileged (.sindb d s r) st (inputBlock .byte .special false false d s r st)

/-- INDR @RRd,@Rs,r (46_input_output.md R269). -/
def execIndr (d s r : Reg) (st : State) : Res State :=
  privileged (.indr d s r) st (inputBlock .word .standard false true d s r st)

/-- INDRB @RRd,@Rs,r (46_input_output.md R269). -/
def execIndrb (d s r : Reg) (st : State) : Res State :=
  privileged (.indrb d s r) st (inputBlock .byte .standard false true d s r st)

/-- SINDR @RRd,@Rs,r (46_input_output.md R269). -/
def execSindr (d s r : Reg) (st : State) : Res State :=
  privileged (.sindr d s r) st (inputBlock .word .special false true d s r st)

/-- SINDRB @RRd,@Rs,r (46_input_output.md R269). -/
def execSindrb (d s r : Reg) (st : State) : Res State :=
  privileged (.sindrb d s r) st (inputBlock .byte .special false true d s r st)

/-- OUTI @Rd,@RRs,r (46_input_output.md R276). -/
def execOuti (d s r : Reg) (st : State) : Res State :=
  privileged (.outi d s r) st (outputBlock .word .standard true false d s r st)

/-- OUTIB @Rd,@RRs,r (46_input_output.md R276). -/
def execOutib (d s r : Reg) (st : State) : Res State :=
  privileged (.outib d s r) st (outputBlock .byte .standard true false d s r st)

/-- SOUTI @Rd,@RRs,r (46_input_output.md R276). -/
def execSouti (d s r : Reg) (st : State) : Res State :=
  privileged (.souti d s r) st (outputBlock .word .special true false d s r st)

/-- SOUTIB @Rd,@RRs,r (46_input_output.md R276). -/
def execSoutib (d s r : Reg) (st : State) : Res State :=
  privileged (.soutib d s r) st (outputBlock .byte .special true false d s r st)

/-- OTIR @Rd,@RRs,r (46_input_output.md R273). -/
def execOtir (d s r : Reg) (st : State) : Res State :=
  privileged (.otir d s r) st (outputBlock .word .standard true true d s r st)

/-- OTIRB @Rd,@RRs,r (46_input_output.md R273). -/
def execOtirb (d s r : Reg) (st : State) : Res State :=
  privileged (.otirb d s r) st (outputBlock .byte .standard true true d s r st)

/-- SOTIR @Rd,@RRs,r (46_input_output.md R273). -/
def execSotir (d s r : Reg) (st : State) : Res State :=
  privileged (.sotir d s r) st (outputBlock .word .special true true d s r st)

/-- SOTIRB @Rd,@RRs,r (46_input_output.md R273). -/
def execSotirb (d s r : Reg) (st : State) : Res State :=
  privileged (.sotirb d s r) st (outputBlock .byte .special true true d s r st)

/-- OUTD @Rd,@RRs,r (46_input_output.md R275). -/
def execOutd (d s r : Reg) (st : State) : Res State :=
  privileged (.outd d s r) st (outputBlock .word .standard false false d s r st)

/-- OUTDB @Rd,@RRs,r (46_input_output.md R275). -/
def execOutdb (d s r : Reg) (st : State) : Res State :=
  privileged (.outdb d s r) st (outputBlock .byte .standard false false d s r st)

/-- SOUTD @Rd,@RRs,r (46_input_output.md R275). -/
def execSoutd (d s r : Reg) (st : State) : Res State :=
  privileged (.soutd d s r) st (outputBlock .word .special false false d s r st)

/-- SOUTDB @Rd,@RRs,r (46_input_output.md R275). -/
def execSoutdb (d s r : Reg) (st : State) : Res State :=
  privileged (.soutdb d s r) st (outputBlock .byte .special false false d s r st)

/-- OTDR @Rd,@RRs,r (46_input_output.md R272). -/
def execOtdr (d s r : Reg) (st : State) : Res State :=
  privileged (.otdr d s r) st (outputBlock .word .standard false true d s r st)

/-- OTDRB @Rd,@RRs,r (46_input_output.md R272). -/
def execOtdrb (d s r : Reg) (st : State) : Res State :=
  privileged (.otdrb d s r) st (outputBlock .byte .standard false true d s r st)

/-- SOTDR @Rd,@RRs,r (46_input_output.md R272). -/
def execSotdr (d s r : Reg) (st : State) : Res State :=
  privileged (.sotdr d s r) st (outputBlock .word .special false true d s r st)

/-- SOTDRB @Rd,@RRs,r (46_input_output.md R272). -/
def execSotdrb (d s r : Reg) (st : State) : Res State :=
  privileged (.sotdrb d s r) st (outputBlock .byte .special false true d s r st)

end Sys2Proof.Machine
end

