-- ==== Sys2Proof/Machine/LoadExchange.lean ====
section
/-! DEFINITION. The load and exchange instructions (40_load_exchange.md). -/

namespace Sys2Proof.Machine

/-- Writes the value read to a register (40_load_exchange.md R143, R146, R148). -/
def loadReg (w : Width) (d : Reg) (n : Nat) (v : Res (BitVec w.bits)) (s : State) : Res State :=
  v.andThen fun v => .next (advance n (writeReg w d v s))

/-- Writes a value to memory (40_load_exchange.md R143, R148). -/
def storeAt (w : Width) (n : Nat) (a : Addr) (v : BitVec w.bits) (s : State) : Res State :=
  (store (Guard.after n s) w a v s).andThen fun s => .next (advance n s)

/-- `RR[d] <- long_of(EA)` (40_load_exchange.md R144, R145). -/
def loadAddress (d : Reg) (n : Nat) (a : Addr) (s : State) : Res State :=
  .next (advance n (spend 1 (writeLong d (longOf a (draw 0 s)) s)))

/-- `write_W(dst, 0)`, without reading it (40_load_exchange.md R141). -/
def clearOpd (w : Width) (dst : Opd) (s : State) : Res State :=
  (writePlace (Guard.after (1 + dst.words) s) w (place dst s) 0#_ s).andThen fun s => .next (advance (1 + dst.words) s)

/-- Exchanges a register with an operand; the address is computed first (40_load_exchange.md R142). -/
def exchange (w : Width) (d : Reg) (src : Opd) (s : State) : Res State :=
  let p := place src s
  (readPlace w p s).andThen fun t =>
  (writePlace (Guard.after (1 + src.words) s) w p (readReg w d s) s).andThen fun s =>
  .next (advance (1 + src.words) (writeReg w d t s))

/-- Pushes a value through the pointer RRp; `regs` are the registers of the source operand
(40_load_exchange.md R150). -/
def pushValue (w : Width) (p : Reg) (n : Nat) (regs : List Reg) (v : Res (BitVec w.bits)) (s : State) : Res State :=
  if disjoint regs [p, p + 1#4] = false then .refused .pushOverlap
  else
    v.andThen fun v =>
    let t := stepPointer p (-(BitVec.ofNat 16 w.bytes)) s
    (store (Guard.after n s) w (pointer p t) v t).andThen fun t => .next (advance n t)

/-- Pops a value through the pointer RRp (40_load_exchange.md R149). -/
def popValue (w : Width) (dst : Opd) (p : Reg) (s : State) : Res State :=
  if disjoint (opdRegs w dst) [p, p + 1#4] = false then .refused .popOverlap
  else
    (load w (pointer p s) s).andThen fun v =>
    (writePlace (Guard.after (1 + dst.words) s) w (place dst s) v (stepPointer p (BitVec.ofNat 16 w.bytes) s)).andThen
    fun t => .next (advance (1 + dst.words) t)

/-- Loads `n` consecutive word registers from ascending addresses; register numbers wrap from 15 to 0
(40_load_exchange.md R147). -/
def loadWords : Nat → Reg → Addr → State → Res State
  | 0, _, _, s => .next s
  | n + 1, d, a, s => (load .word a s).andThen fun v => loadWords n (d + 1#4) (offsetBy a 2#16) (writeWord d v s)

/-- Stores `n` consecutive word registers to ascending addresses (40_load_exchange.md R147). -/
def storeWords (g : Guard) : Nat → Reg → Addr → State → Res State
  | 0, _, _, s => .next s
  | n + 1, r, a, s => (store g .word a (readWord r s) s).andThen fun s => storeWords g n (r + 1#4) (offsetBy a 2#16) s

/-- The `n` consecutive registers from `d`, wrapping from 15 to 0 (40_load_exchange.md R147). -/
def regRange (d : Reg) : Nat → List Reg
  | 0 => []
  | n + 1 => d :: regRange (d + 1#4) n

/-- LDM to registers (40_load_exchange.md R147). -/
def loadMultiple (d : Reg) (src : Mem) (n1 : BitVec 4) (s : State) : Res State :=
  if disjoint (memRegs src) (regRange d (n1.toNat + 1)) = false then .refused .ldmOverlap
  else (loadWords (n1.toNat + 1) d (memAddr src s) s).andThen fun s => .next (advance (2 + src.words) s)

/-- LDM to memory (40_load_exchange.md R147). -/
def storeMultiple (dst : Mem) (r : Reg) (n1 : BitVec 4) (s : State) : Res State :=
  (storeWords (Guard.after (2 + dst.words) s) (n1.toNat + 1) r (memAddr dst s) s).andThen fun s =>
  .next (advance (2 + dst.words) s)

/-- LDB Rbd,src (40_load_exchange.md R143). -/
def execLdb (d : Reg) (src : Src 8) (st : State) : Res State :=
  loadReg .byte d (1 + src.words) (readSrc .byte src st) st

/-- LD Rd,src (40_load_exchange.md R143). -/
def execLd (d : Reg) (src : Src 16) (st : State) : Res State :=
  loadReg .word d (1 + src.words) (readSrc .word src st) st

/-- LDL RRd,src (40_load_exchange.md R143). -/
def execLdl (d : Reg) (src : Src 32) (st : State) : Res State :=
  loadReg .long d (1 + src.words) (readSrc .long src st) st

/-- EXB Rbd,src (40_load_exchange.md R142). -/
def execExb (d : Reg) (src : Opd) (st : State) : Res State :=
  exchange .byte d src st

/-- EX Rd,src (40_load_exchange.md R142). -/
def execEx (d : Reg) (src : Opd) (st : State) : Res State :=
  exchange .word d src st

/-- CLRB dst (40_load_exchange.md R141). -/
def execClrb (dst : Opd) (st : State) : Res State :=
  clearOpd .byte dst st

/-- CLR dst (40_load_exchange.md R141). -/
def execClr (dst : Opd) (st : State) : Res State :=
  clearOpd .word dst st

/-- LDB dst,#imm (40_load_exchange.md R143). -/
def execLdbImm (dst : Mem) (v : Byte) (st : State) : Res State :=
  storeAt .byte (2 + dst.words) (memAddr dst st) v st

/-- LD dst,#imm (40_load_exchange.md R143). -/
def execLdImm (dst : Mem) (v : Word) (st : State) : Res State :=
  storeAt .word (2 + dst.words) (memAddr dst st) v st

/-- PUSH @RRd,#imm16 (40_load_exchange.md R150). -/
def execPushImm (p : Reg) (v : Word) (st : State) : Res State :=
  pushValue .word p 2 [] (.next v) st

/-- PUSH @RRd,src (40_load_exchange.md R150). -/
def execPush (p : Reg) (src : Opd) (st : State) : Res State :=
  pushValue .word p (1 + src.words) (opdRegs .word src) (readOpd .word src st) st

/-- PUSHL @RRd,src (40_load_exchange.md R150). -/
def execPushl (p : Reg) (src : Opd) (st : State) : Res State :=
  pushValue .long p (1 + src.words) (opdRegs .long src) (readOpd .long src st) st

/-- POP dst,@RRs (40_load_exchange.md R149). -/
def execPop (dst : Opd) (p : Reg) (st : State) : Res State :=
  popValue .word dst p st

/-- POPL dst,@RRs (40_load_exchange.md R149). -/
def execPopl (dst : Opd) (p : Reg) (st : State) : Res State :=
  popValue .long dst p st

/-- LDM Rd,src,n (40_load_exchange.md R147). -/
def execLdmLoad (d : Reg) (src : Mem) (n1 : BitVec 4) (st : State) : Res State :=
  loadMultiple d src n1 st

/-- LDM dst,Rs,n (40_load_exchange.md R147). -/
def execLdmStore (dst : Mem) (s : Reg) (n1 : BitVec 4) (st : State) : Res State :=
  storeMultiple dst s n1 st

/-- LDB dst,Rbs (40_load_exchange.md R143). -/
def execLdbStore (dst : Mem) (s : Reg) (st : State) : Res State :=
  storeAt .byte (1 + dst.words) (memAddr dst st) (readReg .byte s st) st

/-- LD dst,Rs (40_load_exchange.md R143). -/
def execLdStore (dst : Mem) (s : Reg) (st : State) : Res State :=
  storeAt .word (1 + dst.words) (memAddr dst st) (readReg .word s st) st

/-- LDL dst,RRs (40_load_exchange.md R143). -/
def execLdlStore (dst : Mem) (s : Reg) (st : State) : Res State :=
  storeAt .long (1 + dst.words) (memAddr dst st) (readReg .long s st) st

/-- LDRB Rbd,disp (40_load_exchange.md R148). -/
def execLdrbLoad (d : Reg) (disp : Word) (st : State) : Res State :=
  loadReg .byte d 2 (load .byte (relativeAddr disp st) st) st

/-- LDRB disp,Rbs (40_load_exchange.md R148). -/
def execLdrbStore (disp : Word) (s : Reg) (st : State) : Res State :=
  storeAt .byte 2 (relativeAddr disp st) (readReg .byte s st) st

/-- LDB Rbd,RRs[#disp] (40_load_exchange.md R143). -/
def execLdbBA (d p : Reg) (disp : Word) (st : State) : Res State :=
  loadReg .byte d 2 (load .byte (basedAddr p disp st) st) st

/-- LDB RRd[#disp],Rbs (40_load_exchange.md R143). -/
def execLdbStoreBA (p : Reg) (disp : Word) (s : Reg) (st : State) : Res State :=
  storeAt .byte 2 (basedAddr p disp st) (readReg .byte s st) st

/-- LDB Rbd,RRs[Rx] (40_load_exchange.md R143). -/
def execLdbBX (d p x : Reg) (st : State) : Res State :=
  loadReg .byte d 2 (load .byte (basedIndexedAddr p x st) st) st

/-- LDB RRd[Rx],Rbs (40_load_exchange.md R143). -/
def execLdbStoreBX (p x s : Reg) (st : State) : Res State :=
  storeAt .byte 2 (basedIndexedAddr p x st) (readReg .byte s st) st

/-- LDR Rd,disp (40_load_exchange.md R148). -/
def execLdrLoad (d : Reg) (disp : Word) (st : State) : Res State :=
  loadReg .word d 2 (load .word (relativeAddr disp st) st) st

/-- LDR disp,Rs (40_load_exchange.md R148). -/
def execLdrStore (disp : Word) (s : Reg) (st : State) : Res State :=
  storeAt .word 2 (relativeAddr disp st) (readReg .word s st) st

/-- LD Rd,RRs[#disp] (40_load_exchange.md R143). -/
def execLdBA (d p : Reg) (disp : Word) (st : State) : Res State :=
  loadReg .word d 2 (load .word (basedAddr p disp st) st) st

/-- LD RRd[#disp],Rs (40_load_exchange.md R143). -/
def execLdStoreBA (p : Reg) (disp : Word) (s : Reg) (st : State) : Res State :=
  storeAt .word 2 (basedAddr p disp st) (readReg .word s st) st

/-- LD Rd,RRs[Rx] (40_load_exchange.md R143). -/
def execLdBX (d p x : Reg) (st : State) : Res State :=
  loadReg .word d 2 (load .word (basedIndexedAddr p x st) st) st

/-- LD RRd[Rx],Rs (40_load_exchange.md R143). -/
def execLdStoreBX (p x s : Reg) (st : State) : Res State :=
  storeAt .word 2 (basedIndexedAddr p x st) (readReg .word s st) st

/-- LDRL RRd,disp (40_load_exchange.md R148). -/
def execLdrlLoad (d : Reg) (disp : Word) (st : State) : Res State :=
  loadReg .long d 2 (load .long (relativeAddr disp st) st) st

/-- LDRL disp,RRs (40_load_exchange.md R148). -/
def execLdrlStore (disp : Word) (s : Reg) (st : State) : Res State :=
  storeAt .long 2 (relativeAddr disp st) (readReg .long s st) st

/-- LDL RRd,RRs[#disp] (40_load_exchange.md R143). -/
def execLdlBA (d p : Reg) (disp : Word) (st : State) : Res State :=
  loadReg .long d 2 (load .long (basedAddr p disp st) st) st

/-- LDL RRd[#disp],RRs (40_load_exchange.md R143). -/
def execLdlStoreBA (p : Reg) (disp : Word) (s : Reg) (st : State) : Res State :=
  storeAt .long 2 (basedAddr p disp st) (readReg .long s st) st

/-- LDL RRd,RRs[Rx] (40_load_exchange.md R143). -/
def execLdlBX (d p x : Reg) (st : State) : Res State :=
  loadReg .long d 2 (load .long (basedIndexedAddr p x st) st) st

/-- LDL RRd[Rx],RRs (40_load_exchange.md R143). -/
def execLdlStoreBX (p x s : Reg) (st : State) : Res State :=
  storeAt .long 2 (basedIndexedAddr p x st) (readReg .long s st) st

/-- LDA RRd,src (40_load_exchange.md R144). -/
def execLda (d : Reg) (src : Direct) (st : State) : Res State :=
  loadAddress d (1 + src.words) (directAddr src st) st

/-- LDA RRd,RRs[#disp] (40_load_exchange.md R144). -/
def execLdaBA (d p : Reg) (disp : Word) (st : State) : Res State :=
  loadAddress d 2 (basedAddr p disp st) st

/-- LDA RRd,RRs[Rx] (40_load_exchange.md R144). -/
def execLdaBX (d p x : Reg) (st : State) : Res State :=
  loadAddress d 2 (basedIndexedAddr p x st) st

/-- LDAR RRd,disp (40_load_exchange.md R145). -/
def execLdar (d : Reg) (disp : Word) (st : State) : Res State :=
  loadAddress d 2 (relativeAddr disp st) st

/-- LDK Rd,#n (40_load_exchange.md R146). -/
def execLdk (d : Reg) (n : BitVec 4) (st : State) : Res State :=
  loadReg .word d 1 (.next (n.setWidth 16)) st

/-- LDB Rbd,#imm8, one word (40_load_exchange.md R143). -/
def execLdbShort (d : Reg) (v : Byte) (st : State) : Res State :=
  loadReg .byte d 1 (.next v) st

end Sys2Proof.Machine
end

