-- ==== Sys2Proof/Machine/Logical.lean ====
section
/-! DEFINITION. The logical and bit instructions (42_logical_bit.md). -/

namespace Sys2Proof.Machine

/-- `Reg_W[d] <- op(Reg_W[d], src)` with Z, S and, for the byte form, parity (42_logical_bit.md R181, R183,
R185). -/
def logical (w : Width) (op : BitVec w.bits → BitVec w.bits → BitVec w.bits) (d : Reg) (src : Src w.bits)
    (s : State) : Res State :=
  (readSrc w src s).andThen fun b =>
  let r := op (readReg w d s) b
  .next (advance (1 + src.words) (setFcw (s.fcw.setLogic w r) (writeReg w d r s)))

/-- `dst <- ~dst` (42_logical_bit.md R182). -/
def complement (w : Width) (dst : Opd) (s : State) : Res State :=
  let p := place dst s
  (readPlace w p s).andThen fun a =>
  (writePlace (Guard.after (1 + dst.words) s) w p (~~~a) s).andThen fun s =>
  .next (advance (1 + dst.words) (setFcw (s.fcw.setLogic w (~~~a)) s))

/-- The flags of TEST: parity for the byte form, a free P/V for the others (42_logical_bit.md R184). -/
def testFlags (w : Width) (r : BitVec w.bits) (s : State) : Fcw :=
  match w with
  | .byte => (s.fcw.setZS r).setPV (evenParity r)
  | .word => (s.fcw.setZS r).setPV (drawBit 0 s)
  | .long => (s.fcw.setZS r).setPV (drawBit 0 s)

/-- TEST, TESTB, TESTL: only flags are written (42_logical_bit.md R184). -/
def testOpd (w : Width) (dst : Opd) (s : State) : Res State :=
  (readOpd w dst s).andThen fun r =>
  .next (advance (1 + dst.words) (spend 1 (setFcw (testFlags w r s) s)))

/-- Sets bit 0 of a register when the condition holds (42_logical_bit.md R186). -/
def testCondition (w : Width) (cc : CC) (d : Reg) (s : State) : Res State :=
  .next (advance 1 (if cond cc s.fcw then writeReg w d (readReg w d s ||| 1#_) s else s))

/-- The value with bit `b` set. -/
def putBit {n : Nat} (v : BitVec n) (b : Nat) : BitVec n := v ||| (1#n <<< b)

/-- The value with bit `b` cleared. -/
def clearBit {n : Nat} (v : BitVec n) (b : Nat) : BitVec n := v &&& ~~~(1#n <<< b)

/-- The bit number of a dynamic bit instruction: the low `k` bits of Rs (42_logical_bit.md R190). -/
def dynamicBit (k : Nat) (r : Reg) (s : State) : Nat := (readWord r s).toNat % 2 ^ k

/-- `Z <- not bit b` (42_logical_bit.md R191). -/
def testBit (w : Width) (n : Nat) (p : Place) (b : Nat) (s : State) : Res State :=
  (readPlace w p s).andThen fun v => .next (advance n (setFcw (s.fcw.setZ (!v.getLsbD b)) s))

/-- RES and SET: the operand is read and written back whole (42_logical_bit.md R190, R192, R193). -/
def changeBit (w : Width) (n : Nat) (p : Place) (change : BitVec w.bits → BitVec w.bits) (s : State) : Res State :=
  (readPlace w p s).andThen fun v =>
  (writePlace (Guard.after n s) w p (change v) s).andThen fun s => .next (advance n s)

/-- `S <- msb`, then all ones (42_logical_bit.md R195). -/
def testAndSet (w : Width) (dst : Opd) (s : State) : Res State :=
  let p := place dst s
  (readPlace w p s).andThen fun v =>
  (writePlace (Guard.after (1 + dst.words) s) w p (BitVec.allOnes w.bits) s).andThen fun s =>
  .next (advance (1 + dst.words) (setFcw { s.fcw with s := v.msb } s))

/-- ORB Rbd,src (42_logical_bit.md R183). -/
def execOrb (d : Reg) (src : Src 8) (st : State) : Res State :=
  logical .byte (· ||| ·) d src st

/-- OR Rd,src (42_logical_bit.md R183). -/
def execOr (d : Reg) (src : Src 16) (st : State) : Res State :=
  logical .word (· ||| ·) d src st

/-- ANDB Rbd,src (42_logical_bit.md R181). -/
def execAndb (d : Reg) (src : Src 8) (st : State) : Res State :=
  logical .byte (· &&& ·) d src st

/-- AND Rd,src (42_logical_bit.md R181). -/
def execAnd (d : Reg) (src : Src 16) (st : State) : Res State :=
  logical .word (· &&& ·) d src st

/-- XORB Rbd,src (42_logical_bit.md R185). -/
def execXorb (d : Reg) (src : Src 8) (st : State) : Res State :=
  logical .byte (· ^^^ ·) d src st

/-- XOR Rd,src (42_logical_bit.md R185). -/
def execXor (d : Reg) (src : Src 16) (st : State) : Res State :=
  logical .word (· ^^^ ·) d src st

/-- COMB dst (42_logical_bit.md R182). -/
def execComb (dst : Opd) (st : State) : Res State :=
  complement .byte dst st

/-- COM dst (42_logical_bit.md R182). -/
def execCom (dst : Opd) (st : State) : Res State :=
  complement .word dst st

/-- TESTB dst (42_logical_bit.md R184). -/
def execTestb (dst : Opd) (st : State) : Res State :=
  testOpd .byte dst st

/-- TEST dst (42_logical_bit.md R184). -/
def execTest (dst : Opd) (st : State) : Res State :=
  testOpd .word dst st

/-- TESTL dst (42_logical_bit.md R184). -/
def execTestl (dst : Opd) (st : State) : Res State :=
  testOpd .long dst st

/-- TSETB dst (42_logical_bit.md R195). -/
def execTsetb (dst : Opd) (st : State) : Res State :=
  testAndSet .byte dst st

/-- TSET dst (42_logical_bit.md R195). -/
def execTset (dst : Opd) (st : State) : Res State :=
  testAndSet .word dst st

/-- RESB dst,#b (42_logical_bit.md R192). -/
def execResb (dst : Opd) (b : BitVec 3) (st : State) : Res State :=
  changeBit .byte (1 + dst.words) (place dst st) (clearBit · b.toNat) st

/-- RES dst,#b (42_logical_bit.md R192). -/
def execRes (dst : Opd) (b : BitVec 4) (st : State) : Res State :=
  changeBit .word (1 + dst.words) (place dst st) (clearBit · b.toNat) st

/-- RESB Rbd,Rs (42_logical_bit.md R192). -/
def execResbDyn (d s : Reg) (st : State) : Res State :=
  changeBit .byte 2 (.reg d) (clearBit · (dynamicBit 3 s st)) st

/-- RES Rd,Rs (42_logical_bit.md R192). -/
def execResDyn (d s : Reg) (st : State) : Res State :=
  changeBit .word 2 (.reg d) (clearBit · (dynamicBit 4 s st)) st

/-- SETB dst,#b (42_logical_bit.md R193). -/
def execSetb (dst : Opd) (b : BitVec 3) (st : State) : Res State :=
  changeBit .byte (1 + dst.words) (place dst st) (putBit · b.toNat) st

/-- SET dst,#b (42_logical_bit.md R193). -/
def execSet (dst : Opd) (b : BitVec 4) (st : State) : Res State :=
  changeBit .word (1 + dst.words) (place dst st) (putBit · b.toNat) st

/-- SETB Rbd,Rs (42_logical_bit.md R193). -/
def execSetbDyn (d s : Reg) (st : State) : Res State :=
  changeBit .byte 2 (.reg d) (putBit · (dynamicBit 3 s st)) st

/-- SET Rd,Rs (42_logical_bit.md R193). -/
def execSetDyn (d s : Reg) (st : State) : Res State :=
  changeBit .word 2 (.reg d) (putBit · (dynamicBit 4 s st)) st

/-- BITB dst,#b (42_logical_bit.md R191). -/
def execBitb (dst : Opd) (b : BitVec 3) (st : State) : Res State :=
  testBit .byte (1 + dst.words) (place dst st) b.toNat st

/-- BIT dst,#b (42_logical_bit.md R191). -/
def execBit (dst : Opd) (b : BitVec 4) (st : State) : Res State :=
  testBit .word (1 + dst.words) (place dst st) b.toNat st

/-- BITB Rbd,Rs (42_logical_bit.md R191). -/
def execBitbDyn (d s : Reg) (st : State) : Res State :=
  testBit .byte 2 (.reg d) (dynamicBit 3 s st) st

/-- BIT Rd,Rs (42_logical_bit.md R191). -/
def execBitDyn (d s : Reg) (st : State) : Res State :=
  testBit .word 2 (.reg d) (dynamicBit 4 s st) st

/-- TCCB cc,Rbd (42_logical_bit.md R186). -/
def execTccb (cc : CC) (d : Reg) (st : State) : Res State :=
  testCondition .byte cc d st

/-- TCC cc,Rd (42_logical_bit.md R186). -/
def execTcc (cc : CC) (d : Reg) (st : State) : Res State :=
  testCondition .word cc d st

end Sys2Proof.Machine
end

