-- ==== Sys2Proof/Machine/Shift.lean ====
section
/-! DEFINITION. The rotate and shift instructions (43_rotate_shift.md). -/

namespace Sys2Proof.Machine

/-- RL, RLC, RR, RRC by one place or two: `one` is the single step (43_rotate_shift.md R201, R202, R204,
R205). -/
def rotate (w : Width) (one : BitVec w.bits → Bool → BitVec w.bits × Bool) (d : Reg) (two : Bool)
    (s : State) : Res State :=
  let v := readReg w d s
  let x := shiftBy one (if two then 2 else 1) v s.fcw.c
  .next (advance 1 (spend 1
    (setFcw (s.fcw.setCZSV x.out (decide (x.v = 0#_)) x.v.msb (signChange v x (drawBit 0 s))) (writeReg w d x.v s))))

/-- RLDB (`left`) and RRDB: the digits of the link and source bytes rotate; the same byte register for both
gives free values (43_rotate_shift.md R203, R206). -/
def rotateDigits (left : Bool) (l r : Reg) (s : State) : Res State :=
  .next <| advance 1 <| spend 3 <|
    if l = r then
      setFcw { s.fcw with z := drawBit 1 s, s := drawBit 2 s } (writeByte l ((draw 0 s).extractLsb' 0 8) s)
    else
      let a := readByte l s
      let b := readByte r s
      let link := a.extractLsb' 4 4 ++ (if left then b.extractLsb' 4 4 else b.extractLsb' 0 4)
      let src := if left then b.extractLsb' 0 4 ++ a.extractLsb' 0 4 else a.extractLsb' 0 4 ++ b.extractLsb' 4 4
      setFcw { s.fcw with z := decide (link = 0#8), s := drawBit 2 s } (writeByte r src (writeByte l link s))

/-- A left shift by `n` places: with count 0, C is free; P/V is the sign change for SLA and free for SLL
(43_rotate_shift.md R209, R210). -/
def shiftLeft (w : Width) (arith : Bool) (d : Reg) (n : Nat) (s : State) : State :=
  let v := readReg w d s
  let x := shiftBy shl1 n v false
  let c := if n = 0 then drawBit 0 s else x.out
  let pv := if arith then signChange v x (drawBit 1 s) else drawBit 1 s
  spend 2 (setFcw (s.fcw.setCZSV c (decide (x.v = 0#_)) x.v.msb pv) (writeReg w d x.v s))

/-- A right shift by `n` places: P/V is 0 for SRA and free for SRL (43_rotate_shift.md R211, R212). -/
def shiftRight (w : Width) (arith : Bool) (d : Reg) (n : Nat) (s : State) : State :=
  let v := readReg w d s
  let x := shiftBy (if arith then shr1Arith else shr1Log) n v false
  let c := if n = 0 then drawBit 0 s else x.out
  let pv := if arith then false else drawBit 1 s
  spend 2 (setFcw (s.fcw.setCZSV c (decide (x.v = 0#_)) x.v.msb pv) (writeReg w d x.v s))

/-- A dynamic shift: positive counts shift left, negative right; beyond the width the destination, C, Z, S
and P/V are free (43_rotate_shift.md R207, R208). -/
def shiftDynamic (w : Width) (arith : Bool) (d r : Reg) (s : State) : State :=
  let n := (readWord r s).toInt
  if n < -(w.bits : Int) ∨ (w.bits : Int) < n then
    spend 5 (setFcw (s.fcw.setCZSV (drawBit 1 s) (drawBit 2 s) (drawBit 3 s) (drawBit 4 s))
      (writeReg w d ((draw 0 s).setWidth w.bits) s))
  else if 0 ≤ n then shiftLeft w arith d n.toNat s
  else shiftRight w arith d (-n).toNat s

/-- RLDB Rbl,Rbs (43_rotate_shift.md R203). -/
def execRldb (l s : Reg) (st : State) : Res State :=
  rotateDigits true l s st

/-- RRDB Rbl,Rbs (43_rotate_shift.md R206). -/
def execRrdb (l s : Reg) (st : State) : Res State :=
  rotateDigits false l s st

/-- RLB Rbd,#n (43_rotate_shift.md R201). -/
def execRlb (d : Reg) (two : Bool) (st : State) : Res State :=
  rotate .byte rol1 d two st

/-- RL Rd,#n (43_rotate_shift.md R201). -/
def execRl (d : Reg) (two : Bool) (st : State) : Res State :=
  rotate .word rol1 d two st

/-- RRB Rbd,#n (43_rotate_shift.md R204). -/
def execRrb (d : Reg) (two : Bool) (st : State) : Res State :=
  rotate .byte ror1 d two st

/-- RR Rd,#n (43_rotate_shift.md R204). -/
def execRr (d : Reg) (two : Bool) (st : State) : Res State :=
  rotate .word ror1 d two st

/-- RLCB Rbd,#n (43_rotate_shift.md R202). -/
def execRlcb (d : Reg) (two : Bool) (st : State) : Res State :=
  rotate .byte rolc1 d two st

/-- RLC Rd,#n (43_rotate_shift.md R202). -/
def execRlc (d : Reg) (two : Bool) (st : State) : Res State :=
  rotate .word rolc1 d two st

/-- RRCB Rbd,#n (43_rotate_shift.md R205). -/
def execRrcb (d : Reg) (two : Bool) (st : State) : Res State :=
  rotate .byte rorc1 d two st

/-- RRC Rd,#n (43_rotate_shift.md R205). -/
def execRrc (d : Reg) (two : Bool) (st : State) : Res State :=
  rotate .word rorc1 d two st

/-- SLLB Rbd,#n (43_rotate_shift.md R210). -/
def execSllb (d : Reg) (n : Nat) (st : State) : Res State :=
  .next (advance 2 (shiftLeft .byte false d n st))

/-- SLL Rd,#n (43_rotate_shift.md R210). -/
def execSll (d : Reg) (n : Nat) (st : State) : Res State :=
  .next (advance 2 (shiftLeft .word false d n st))

/-- SLLL RRd,#n (43_rotate_shift.md R210). -/
def execSlll (d : Reg) (n : Nat) (st : State) : Res State :=
  .next (advance 2 (shiftLeft .long false d n st))

/-- SRLB Rbd,#n (43_rotate_shift.md R212). -/
def execSrlb (d : Reg) (n : Nat) (st : State) : Res State :=
  .next (advance 2 (shiftRight .byte false d n st))

/-- SRL Rd,#n (43_rotate_shift.md R212). -/
def execSrl (d : Reg) (n : Nat) (st : State) : Res State :=
  .next (advance 2 (shiftRight .word false d n st))

/-- SRLL RRd,#n (43_rotate_shift.md R212). -/
def execSrll (d : Reg) (n : Nat) (st : State) : Res State :=
  .next (advance 2 (shiftRight .long false d n st))

/-- SLAB Rbd,#n (43_rotate_shift.md R209). -/
def execSlab (d : Reg) (n : Nat) (st : State) : Res State :=
  .next (advance 2 (shiftLeft .byte true d n st))

/-- SLA Rd,#n (43_rotate_shift.md R209). -/
def execSla (d : Reg) (n : Nat) (st : State) : Res State :=
  .next (advance 2 (shiftLeft .word true d n st))

/-- SLAL RRd,#n (43_rotate_shift.md R209). -/
def execSlal (d : Reg) (n : Nat) (st : State) : Res State :=
  .next (advance 2 (shiftLeft .long true d n st))

/-- SRAB Rbd,#n (43_rotate_shift.md R211). -/
def execSrab (d : Reg) (n : Nat) (st : State) : Res State :=
  .next (advance 2 (shiftRight .byte true d n st))

/-- SRA Rd,#n (43_rotate_shift.md R211). -/
def execSra (d : Reg) (n : Nat) (st : State) : Res State :=
  .next (advance 2 (shiftRight .word true d n st))

/-- SRAL RRd,#n (43_rotate_shift.md R211). -/
def execSral (d : Reg) (n : Nat) (st : State) : Res State :=
  .next (advance 2 (shiftRight .long true d n st))

/-- SDLB Rbd,Rs (43_rotate_shift.md R208). -/
def execSdlb (d s : Reg) (st : State) : Res State :=
  .next (advance 2 (shiftDynamic .byte false d s st))

/-- SDL Rd,Rs (43_rotate_shift.md R208). -/
def execSdl (d s : Reg) (st : State) : Res State :=
  .next (advance 2 (shiftDynamic .word false d s st))

/-- SDLL RRd,Rs (43_rotate_shift.md R208). -/
def execSdll (d s : Reg) (st : State) : Res State :=
  .next (advance 2 (shiftDynamic .long false d s st))

/-- SDAB Rbd,Rs (43_rotate_shift.md R207). -/
def execSdab (d s : Reg) (st : State) : Res State :=
  .next (advance 2 (shiftDynamic .byte true d s st))

/-- SDA Rd,Rs (43_rotate_shift.md R207). -/
def execSda (d s : Reg) (st : State) : Res State :=
  .next (advance 2 (shiftDynamic .word true d s st))

/-- SDAL RRd,Rs (43_rotate_shift.md R207). -/
def execSdal (d s : Reg) (st : State) : Res State :=
  .next (advance 2 (shiftDynamic .long true d s st))

end Sys2Proof.Machine
end

