-- ==== Sys2Proof/Machine/Dispatch.lean ====
section
/-! DEFINITION. The meaning of every instruction: one arm per constructor. -/

namespace Sys2Proof.Machine

def exec (i : Instr) (s : State) : Host.Outcome State Fault Refusal :=
  match i with
  | .addb d src => Sys2Proof.Machine.execAddb d src s
  | .add d src => Sys2Proof.Machine.execAdd d src s
  | .addl d src => Sys2Proof.Machine.execAddl d src s
  | .subb d src => Sys2Proof.Machine.execSubb d src s
  | .sub d src => Sys2Proof.Machine.execSub d src s
  | .subl d src => Sys2Proof.Machine.execSubl d src s
  | .orb d src => Sys2Proof.Machine.execOrb d src s
  | .or d src => Sys2Proof.Machine.execOr d src s
  | .andb d src => Sys2Proof.Machine.execAndb d src s
  | .and d src => Sys2Proof.Machine.execAnd d src s
  | .xorb d src => Sys2Proof.Machine.execXorb d src s
  | .xor d src => Sys2Proof.Machine.execXor d src s
  | .cpb d src => Sys2Proof.Machine.execCpb d src s
  | .cp d src => Sys2Proof.Machine.execCp d src s
  | .cpl d src => Sys2Proof.Machine.execCpl d src s
  | .ldb d src => Sys2Proof.Machine.execLdb d src s
  | .ld d src => Sys2Proof.Machine.execLd d src s
  | .ldl d src => Sys2Proof.Machine.execLdl d src s
  | .mult d src => Sys2Proof.Machine.execMult d src s
  | .multl d src => Sys2Proof.Machine.execMultl d src s
  | .div d src => Sys2Proof.Machine.execDiv d src s
  | .divl d src => Sys2Proof.Machine.execDivl d src s
  | .exb d src => Sys2Proof.Machine.execExb d src s
  | .ex d src => Sys2Proof.Machine.execEx d src s
  | .comb dst => Sys2Proof.Machine.execComb dst s
  | .com dst => Sys2Proof.Machine.execCom dst s
  | .negb dst => Sys2Proof.Machine.execNegb dst s
  | .neg dst => Sys2Proof.Machine.execNeg dst s
  | .testb dst => Sys2Proof.Machine.execTestb dst s
  | .test dst => Sys2Proof.Machine.execTest dst s
  | .testl dst => Sys2Proof.Machine.execTestl dst s
  | .tsetb dst => Sys2Proof.Machine.execTsetb dst s
  | .tset dst => Sys2Proof.Machine.execTset dst s
  | .clrb dst => Sys2Proof.Machine.execClrb dst s
  | .clr dst => Sys2Proof.Machine.execClr dst s
  | .cpbImm dst v => Sys2Proof.Machine.execCpbImm dst v s
  | .cpImm dst v => Sys2Proof.Machine.execCpImm dst v s
  | .ldbImm dst v => Sys2Proof.Machine.execLdbImm dst v s
  | .ldImm dst v => Sys2Proof.Machine.execLdImm dst v s
  | .ldctlbRead d => Sys2Proof.Machine.execLdctlbRead d s
  | .ldctlbWrite r1 => Sys2Proof.Machine.execLdctlbWrite r1 s
  | .setflg f => Sys2Proof.Machine.execSetflg f s
  | .resflg f => Sys2Proof.Machine.execResflg f s
  | .comflg f => Sys2Proof.Machine.execComflg f s
  | .nop => Sys2Proof.Machine.execNop s
  | .pushImm p v => Sys2Proof.Machine.execPushImm p v s
  | .push p src => Sys2Proof.Machine.execPush p src s
  | .pushl p src => Sys2Proof.Machine.execPushl p src s
  | .pop dst p => Sys2Proof.Machine.execPop dst p s
  | .popl dst p => Sys2Proof.Machine.execPopl dst p s
  | .ldmLoad d src n1 => Sys2Proof.Machine.execLdmLoad d src n1 s
  | .ldmStore dst r1 n1 => Sys2Proof.Machine.execLdmStore dst r1 n1 s
  | .ldbStore dst r1 => Sys2Proof.Machine.execLdbStore dst r1 s
  | .ldStore dst r1 => Sys2Proof.Machine.execLdStore dst r1 s
  | .ldlStore dst r1 => Sys2Proof.Machine.execLdlStore dst r1 s
  | .jp cc dst => Sys2Proof.Machine.execJp cc dst s
  | .call dst => Sys2Proof.Machine.execCall dst s
  | .ret cc => Sys2Proof.Machine.execRet cc s
  | .resb dst b => Sys2Proof.Machine.execResb dst b s
  | .res dst b => Sys2Proof.Machine.execRes dst b s
  | .resbDyn d r1 => Sys2Proof.Machine.execResbDyn d r1 s
  | .resDyn d r1 => Sys2Proof.Machine.execResDyn d r1 s
  | .setb dst b => Sys2Proof.Machine.execSetb dst b s
  | .set dst b => Sys2Proof.Machine.execSet dst b s
  | .setbDyn d r1 => Sys2Proof.Machine.execSetbDyn d r1 s
  | .setDyn d r1 => Sys2Proof.Machine.execSetDyn d r1 s
  | .bitb dst b => Sys2Proof.Machine.execBitb dst b s
  | .bit dst b => Sys2Proof.Machine.execBit dst b s
  | .bitbDyn d r1 => Sys2Proof.Machine.execBitbDyn d r1 s
  | .bitDyn d r1 => Sys2Proof.Machine.execBitDyn d r1 s
  | .incb dst n1 => Sys2Proof.Machine.execIncb dst n1 s
  | .inc dst n1 => Sys2Proof.Machine.execInc dst n1 s
  | .decb dst n1 => Sys2Proof.Machine.execDecb dst n1 s
  | .dec dst n1 => Sys2Proof.Machine.execDec dst n1 s
  | .tccb cc d => Sys2Proof.Machine.execTccb cc d s
  | .tcc cc d => Sys2Proof.Machine.execTcc cc d s
  | .ldrbLoad d disp => Sys2Proof.Machine.execLdrbLoad d disp s
  | .ldrbStore disp r1 => Sys2Proof.Machine.execLdrbStore disp r1 s
  | .ldbBA d p disp => Sys2Proof.Machine.execLdbBA d p disp s
  | .ldbStoreBA p disp r1 => Sys2Proof.Machine.execLdbStoreBA p disp r1 s
  | .ldbBX d p x => Sys2Proof.Machine.execLdbBX d p x s
  | .ldbStoreBX p x r1 => Sys2Proof.Machine.execLdbStoreBX p x r1 s
  | .ldrLoad d disp => Sys2Proof.Machine.execLdrLoad d disp s
  | .ldrStore disp r1 => Sys2Proof.Machine.execLdrStore disp r1 s
  | .ldBA d p disp => Sys2Proof.Machine.execLdBA d p disp s
  | .ldStoreBA p disp r1 => Sys2Proof.Machine.execLdStoreBA p disp r1 s
  | .ldBX d p x => Sys2Proof.Machine.execLdBX d p x s
  | .ldStoreBX p x r1 => Sys2Proof.Machine.execLdStoreBX p x r1 s
  | .ldrlLoad d disp => Sys2Proof.Machine.execLdrlLoad d disp s
  | .ldrlStore disp r1 => Sys2Proof.Machine.execLdrlStore disp r1 s
  | .ldlBA d p disp => Sys2Proof.Machine.execLdlBA d p disp s
  | .ldlStoreBA p disp r1 => Sys2Proof.Machine.execLdlStoreBA p disp r1 s
  | .ldlBX d p x => Sys2Proof.Machine.execLdlBX d p x s
  | .ldlStoreBX p x r1 => Sys2Proof.Machine.execLdlStoreBX p x r1 s
  | .lda d src => Sys2Proof.Machine.execLda d src s
  | .ldaBA d p disp => Sys2Proof.Machine.execLdaBA d p disp s
  | .ldaBX d p x => Sys2Proof.Machine.execLdaBX d p x s
  | .ldar d disp => Sys2Proof.Machine.execLdar d disp s
  | .inbInd d p => Sys2Proof.Machine.execInbInd d p s
  | .inInd d p => Sys2Proof.Machine.execInInd d p s
  | .outbInd p r1 => Sys2Proof.Machine.execOutbInd p r1 s
  | .outInd p r1 => Sys2Proof.Machine.execOutInd p r1 s
  | .in_ d port => Sys2Proof.Machine.execIn d port s
  | .inb d port => Sys2Proof.Machine.execInb d port s
  | .sin d port => Sys2Proof.Machine.execSin d port s
  | .sinb d port => Sys2Proof.Machine.execSinb d port s
  | .out port r1 => Sys2Proof.Machine.execOut port r1 s
  | .outb port r1 => Sys2Proof.Machine.execOutb port r1 s
  | .sout port r1 => Sys2Proof.Machine.execSout port r1 s
  | .soutb port r1 => Sys2Proof.Machine.execSoutb port r1 s
  | .ldps src => Sys2Proof.Machine.execLdps src s
  | .halt => Sys2Proof.Machine.execHalt s
  | .iret => Sys2Proof.Machine.execIret s
  | .mset => Sys2Proof.Machine.execMset s
  | .mres => Sys2Proof.Machine.execMres s
  | .mbit => Sys2Proof.Machine.execMbit s
  | .mreq d => Sys2Proof.Machine.execMreq d s
  | .di vi nvi => Sys2Proof.Machine.execDi vi nvi s
  | .ei vi nvi => Sys2Proof.Machine.execEi vi nvi s
  | .ldctlRead d c => Sys2Proof.Machine.execLdctlRead d c s
  | .ldctlWrite c r1 => Sys2Proof.Machine.execLdctlWrite c r1 s
  | .sc n => Sys2Proof.Machine.execSc n s
  | .dab d => Sys2Proof.Machine.execDab d s
  | .extsb d => Sys2Proof.Machine.execExtsb d s
  | .exts d => Sys2Proof.Machine.execExts d s
  | .extsl d => Sys2Proof.Machine.execExtsl d s
  | .adcb d r1 => Sys2Proof.Machine.execAdcb d r1 s
  | .adc d r1 => Sys2Proof.Machine.execAdc d r1 s
  | .sbcb d r1 => Sys2Proof.Machine.execSbcb d r1 s
  | .sbc d r1 => Sys2Proof.Machine.execSbc d r1 s
  | .rldb l r1 => Sys2Proof.Machine.execRldb l r1 s
  | .rrdb l r1 => Sys2Proof.Machine.execRrdb l r1 s
  | .ldk d n => Sys2Proof.Machine.execLdk d n s
  | .rlb d two => Sys2Proof.Machine.execRlb d two s
  | .rl d two => Sys2Proof.Machine.execRl d two s
  | .rrb d two => Sys2Proof.Machine.execRrb d two s
  | .rr d two => Sys2Proof.Machine.execRr d two s
  | .rlcb d two => Sys2Proof.Machine.execRlcb d two s
  | .rlc d two => Sys2Proof.Machine.execRlc d two s
  | .rrcb d two => Sys2Proof.Machine.execRrcb d two s
  | .rrc d two => Sys2Proof.Machine.execRrc d two s
  | .sllb d n => Sys2Proof.Machine.execSllb d n s
  | .sll d n => Sys2Proof.Machine.execSll d n s
  | .slll d n => Sys2Proof.Machine.execSlll d n s
  | .srlb d n => Sys2Proof.Machine.execSrlb d n s
  | .srl d n => Sys2Proof.Machine.execSrl d n s
  | .srll d n => Sys2Proof.Machine.execSrll d n s
  | .slab d n => Sys2Proof.Machine.execSlab d n s
  | .sla d n => Sys2Proof.Machine.execSla d n s
  | .slal d n => Sys2Proof.Machine.execSlal d n s
  | .srab d n => Sys2Proof.Machine.execSrab d n s
  | .sra d n => Sys2Proof.Machine.execSra d n s
  | .sral d n => Sys2Proof.Machine.execSral d n s
  | .sdlb d r1 => Sys2Proof.Machine.execSdlb d r1 s
  | .sdl d r1 => Sys2Proof.Machine.execSdl d r1 s
  | .sdll d r1 => Sys2Proof.Machine.execSdll d r1 s
  | .sdab d r1 => Sys2Proof.Machine.execSdab d r1 s
  | .sda d r1 => Sys2Proof.Machine.execSda d r1 s
  | .sdal d r1 => Sys2Proof.Machine.execSdal d r1 s
  | .trib d r1 r => Sys2Proof.Machine.execTrib d r1 r s
  | .trirb d r1 r => Sys2Proof.Machine.execTrirb d r1 r s
  | .trdb d r1 r => Sys2Proof.Machine.execTrdb d r1 r s
  | .trdrb d r1 r => Sys2Proof.Machine.execTrdrb d r1 r s
  | .trtib d r1 r => Sys2Proof.Machine.execTrtib d r1 r s
  | .trtirb d r1 r => Sys2Proof.Machine.execTrtirb d r1 r s
  | .trtdb d r1 r => Sys2Proof.Machine.execTrtdb d r1 r s
  | .trtdrb d r1 r => Sys2Proof.Machine.execTrtdrb d r1 r s
  | .cpib d r1 r cc => Sys2Proof.Machine.execCpib d r1 r cc s
  | .cpi d r1 r cc => Sys2Proof.Machine.execCpi d r1 r cc s
  | .cpirb d r1 r cc => Sys2Proof.Machine.execCpirb d r1 r cc s
  | .cpir d r1 r cc => Sys2Proof.Machine.execCpir d r1 r cc s
  | .cpdb d r1 r cc => Sys2Proof.Machine.execCpdb d r1 r cc s
  | .cpd d r1 r cc => Sys2Proof.Machine.execCpd d r1 r cc s
  | .cpdrb d r1 r cc => Sys2Proof.Machine.execCpdrb d r1 r cc s
  | .cpdr d r1 r cc => Sys2Proof.Machine.execCpdr d r1 r cc s
  | .cpsib d r1 r cc => Sys2Proof.Machine.execCpsib d r1 r cc s
  | .cpsi d r1 r cc => Sys2Proof.Machine.execCpsi d r1 r cc s
  | .cpsirb d r1 r cc => Sys2Proof.Machine.execCpsirb d r1 r cc s
  | .cpsir d r1 r cc => Sys2Proof.Machine.execCpsir d r1 r cc s
  | .cpsdb d r1 r cc => Sys2Proof.Machine.execCpsdb d r1 r cc s
  | .cpsd d r1 r cc => Sys2Proof.Machine.execCpsd d r1 r cc s
  | .cpsdrb d r1 r cc => Sys2Proof.Machine.execCpsdrb d r1 r cc s
  | .cpsdr d r1 r cc => Sys2Proof.Machine.execCpsdr d r1 r cc s
  | .ldib d r1 r => Sys2Proof.Machine.execLdib d r1 r s
  | .ldi d r1 r => Sys2Proof.Machine.execLdi d r1 r s
  | .ldirb d r1 r => Sys2Proof.Machine.execLdirb d r1 r s
  | .ldir d r1 r => Sys2Proof.Machine.execLdir d r1 r s
  | .lddb d r1 r => Sys2Proof.Machine.execLddb d r1 r s
  | .ldd d r1 r => Sys2Proof.Machine.execLdd d r1 r s
  | .lddrb d r1 r => Sys2Proof.Machine.execLddrb d r1 r s
  | .lddr d r1 r => Sys2Proof.Machine.execLddr d r1 r s
  | .ini d r1 r => Sys2Proof.Machine.execIni d r1 r s
  | .inib d r1 r => Sys2Proof.Machine.execInib d r1 r s
  | .sini d r1 r => Sys2Proof.Machine.execSini d r1 r s
  | .sinib d r1 r => Sys2Proof.Machine.execSinib d r1 r s
  | .inir d r1 r => Sys2Proof.Machine.execInir d r1 r s
  | .inirb d r1 r => Sys2Proof.Machine.execInirb d r1 r s
  | .sinir d r1 r => Sys2Proof.Machine.execSinir d r1 r s
  | .sinirb d r1 r => Sys2Proof.Machine.execSinirb d r1 r s
  | .ind d r1 r => Sys2Proof.Machine.execInd d r1 r s
  | .indb d r1 r => Sys2Proof.Machine.execIndb d r1 r s
  | .sind d r1 r => Sys2Proof.Machine.execSind d r1 r s
  | .sindb d r1 r => Sys2Proof.Machine.execSindb d r1 r s
  | .indr d r1 r => Sys2Proof.Machine.execIndr d r1 r s
  | .indrb d r1 r => Sys2Proof.Machine.execIndrb d r1 r s
  | .sindr d r1 r => Sys2Proof.Machine.execSindr d r1 r s
  | .sindrb d r1 r => Sys2Proof.Machine.execSindrb d r1 r s
  | .outi d r1 r => Sys2Proof.Machine.execOuti d r1 r s
  | .outib d r1 r => Sys2Proof.Machine.execOutib d r1 r s
  | .souti d r1 r => Sys2Proof.Machine.execSouti d r1 r s
  | .soutib d r1 r => Sys2Proof.Machine.execSoutib d r1 r s
  | .otir d r1 r => Sys2Proof.Machine.execOtir d r1 r s
  | .otirb d r1 r => Sys2Proof.Machine.execOtirb d r1 r s
  | .sotir d r1 r => Sys2Proof.Machine.execSotir d r1 r s
  | .sotirb d r1 r => Sys2Proof.Machine.execSotirb d r1 r s
  | .outd d r1 r => Sys2Proof.Machine.execOutd d r1 r s
  | .outdb d r1 r => Sys2Proof.Machine.execOutdb d r1 r s
  | .soutd d r1 r => Sys2Proof.Machine.execSoutd d r1 r s
  | .soutdb d r1 r => Sys2Proof.Machine.execSoutdb d r1 r s
  | .otdr d r1 r => Sys2Proof.Machine.execOtdr d r1 r s
  | .otdrb d r1 r => Sys2Proof.Machine.execOtdrb d r1 r s
  | .sotdr d r1 r => Sys2Proof.Machine.execSotdr d r1 r s
  | .sotdrb d r1 r => Sys2Proof.Machine.execSotdrb d r1 r s
  | .ldbShort d v => Sys2Proof.Machine.execLdbShort d v s
  | .calr p => Sys2Proof.Machine.execCalr p s
  | .jr cc p => Sys2Proof.Machine.execJr cc p s
  | .dbjnz r p => Sys2Proof.Machine.execDbjnz r p s
  | .djnz r p => Sys2Proof.Machine.execDjnz r p s
  | .epu0E lo w2 => Sys2Proof.Machine.execEpu0E lo w2 s
  | .epu0F lo w2 => Sys2Proof.Machine.execEpu0F lo w2 s
  | .epu4E lo w2 => Sys2Proof.Machine.execEpu4E lo w2 s
  | .epu4F lo w2 => Sys2Proof.Machine.execEpu4F lo w2 s
  | .epu8E lo w2 => Sys2Proof.Machine.execEpu8E lo w2 s
  | .epu8F lo w2 => Sys2Proof.Machine.execEpu8F lo w2 s

end Sys2Proof.Machine
end

