-- ==== Sys2Proof/Machine/Fetch.lean ====
section
/-! DEFINITION. What happens at an instruction boundary (60_exceptions.md R320): sampling the pins, the
event to take, and the fetch of the next instruction. -/

namespace Sys2Proof.Machine

/-- The highest-priority event that is pending and not masked (60_exceptions.md R341, R342). -/
def pendingEvent (s : State) : Option Event :=
  if s.nmiPending then some .nmi
  else if s.segtReq then some .segmentTrap
  else if s.viReq && s.fcw.vie then some .vectored
  else if s.nviReq && s.fcw.nvie then some .nonVectored
  else none

/-- The sampling with the oracle used up: the lines keep their levels (log 10), and the acknowledge of the event
that is then taken finds a fresh free word on the bus (60_exceptions.md R347: a draw at each acknowledge). -/
def sampleSilent (s : State) : State :=
  if !s.resetReq && (pendingEvent s).isSome then spend 1 { s with ident := (draw 0 s).extractLsb' 0 16 } else s

/-- Samples the pins: the next element of the oracle, which brings the word on the bus with it; an edge on /NMI
stays pending (60_exceptions.md R320, R338, R347; log 10). -/
def sample (s : State) : State :=
  match s.inputs with
  | [] => sampleSilent s
  | b :: rest =>
    { s with
      resetReq := s.resetReq || b.reset
      nmiPending := s.nmiPending || b.nmi
      segtReq := b.segt
      viReq := b.vi
      nviReq := b.nvi
      ident := b.ident
      inputs := rest }

/-- An event step: the halt ends, the frame saves the PC of the boundary and the word on the bus
(60_exceptions.md R320, R346, R347). -/
def takeEvent (e : Event) (s : State) : Res State := enter Guard.none e s.ident s.pc { s with halted := false }

/-- Up to `n` words from an address, as far as memory is populated; the offset wraps inside the segment
(10_state.md R28; log 15). -/
def fetchWords : Nat → Addr → State → List Word
  | 0, _, _ => []
  | n + 1, a, s =>
    if (span .word a).all (readable s) then peek .word a s :: fetchWords n (offsetBy a 2#16) s else []

/-- The instruction at the PC: words that begin no instruction are reserved also where the next one is not
populated; a word that is needed and missing has no step (60_exceptions.md R320, 30_encoding.md R130, R133;
log 15). -/
def fetch (s : State) : Res Instr :=
  if s.stale then .refused .storeIntoNextWord
  else if s.pc.off.getLsbD 0 then .refused .misaligned
  else
    match decodeWords (fetchWords 4 s.pc s) with
    | .ok (i, _) => .next i
    | .error .truncated => .fault .absentFetch
    | .error (.reserved why) => .refused (.reservedEncoding why)

/-- The even address the next instruction is fetched from. -/
def fetchAddr (s : State) : Addr := { s.pc with off := s.pc.off &&& 0xFFFE }

/-- Stores words from an address on. -/
def placeWords : List Word → Addr → State → State
  | [], _, s => s
  | w :: ws, a, s => placeWords ws (offsetBy a 2#16) (poke .word a w s)

/-- The addresses of `n` bytes from `a` on. -/
def bytesFrom (a : Addr) : Nat → List Addr
  | 0 => []
  | n + 1 => a :: bytesFrom (offsetBy a 1#16) n

/-- The state in which the very next step fetches the given words: they stand at the PC, which is even and in
populated memory; no event is pending, the machine is not halted and no store is outstanding. -/
def withWords (s : State) (ws : List Word) : State :=
  let a := fetchAddr s
  placeWords ws a
    { s with
      pc := a
      fcw := { s.fcw with seg := true }
      map := s.map.filter fun g => !(bytesFrom a 8).any fun b => g.covers (linear b)
      halted := false
      nmiPending := false
      segtReq := false
      viReq := false
      nviReq := false
      resetReq := false
      stale := false
      inputs := [] }

end Sys2Proof.Machine
end

