-- ==== Sys2Proof/Machine/Step.lean ====
section
/-! DEFINITION. One step of the machine (60_exceptions.md R320). -/

namespace Sys2Proof.Machine

/-- One step: reset, else the highest-priority event, else nothing while halted, else one instruction
(60_exceptions.md R320). A state with SEG = 0 is refused (10_state.md R33; log 14). -/
def step (s : State) : Host.Outcome State Fault Refusal :=
  let s := sample s
  if s.resetReq then performReset s
  else if s.fcw.seg = false then .refused .segZero
  else
    match pendingEvent s with
    | some e => takeEvent e s
    | none => if s.halted then .next s else (fetch s).andThen fun i => exec i s

/-- `s` with the instruction of bits `w` (numbered as spec/opcode_table.json numbers them) where `step`
fetches its next instruction, so that the very next step runs it. -/
def State.withFetchWord (s : State) (nbits w : Nat) : State := withWords s (tableWords nbits w)

end Sys2Proof.Machine
end

