-- ==== Sys2Proof/Safety.lean ====
section
/-! DEFINITION. The terms that claims use: the states the spec admits, operands that can be accessed, what a
register or an operand holds afterwards, what else stays the same, and runs. -/

namespace Sys2Proof

open Machine

/-- The states the spec admits: memory in its canonical form, and segmented operation (10_state.md R33). -/
def Inv (s : State) : Prop := s.mem.wf = true ∧ s.fcw.seg = true

/-- The instruction answers a next state: it stops neither with a fault nor with a refusal. -/
def Completes (i : Instr) (s : State) : Prop := ∃ t, exec i s = .next t

/-- The state is reached from `s` in finitely many steps. -/
inductive Reaches : State → State → Prop where
  | refl (s : State) : Reaches s s
  | step {s t u : State} (h : Reaches s t) (hs : Machine.step t = .next u) : Reaches s u

/-- A run is safe when no state it reaches stops at the next step. -/
def Safe (s : State) : Prop := ∀ t, Reaches s t → ∃ u, Machine.step t = .next u

/-- `next_pc` of an instruction: the PC plus its length in bytes (10_state.md R27). -/
def after (i : Instr) (s : State) : Addr := offsetBy s.pc (BitVec.ofNat 16 i.bytes)

/- Operands that can be accessed: aligned and in populated memory (20_memory.md R64, R65, R67). -/

def canRead (w : Width) (a : Addr) (s : State) : Bool := aligned w a && (span w a).all (readable s)

def canWrite (w : Width) (a : Addr) (s : State) : Bool := aligned w a && (span w a).all (writable s)

def srcReady (w : Width) (src : Src w.bits) (s : State) : Bool :=
  match src with
  | .imm _ => true
  | .reg _ => true
  | .mem m => canRead w (memAddr m s) s

def opdReady (w : Width) (o : Opd) (s : State) : Bool :=
  match o with
  | .reg _ => true
  | .mem m => canRead w (memAddr m s) s

/-- Memory that can be written can be read. -/
def opdWritable (w : Width) (o : Opd) (s : State) : Bool :=
  match o with
  | .reg _ => true
  | .mem m => canWrite w (memAddr m s) s

/- What an operand holds (30_encoding.md R109). -/

def srcValue (w : Width) (src : Src w.bits) (s : State) : BitVec w.bits :=
  match src with
  | .imm v => v
  | .reg r => readReg w r s
  | .mem m => peek w (memAddr m s) s

def opdValue (w : Width) (o : Opd) (s : State) : BitVec w.bits :=
  match o with
  | .reg r => readReg w r s
  | .mem m => peek w (memAddr m s) s

/-- The word registers that a write to the operand may change. -/
def opdHomes (w : Width) : Opd → List Reg
  | .reg r => homes w r
  | .mem _ => []

/-- The bytes of memory that a write to the operand stores to: at the operand's address, computed in the state
before the instruction. -/
def opdBytes (w : Width) (o : Opd) (s : State) : List Addr :=
  match o with
  | .reg _ => []
  | .mem m => span w (memAddr m s)

/-- In `t` the register `d` of width `w` holds `v`; for a byte register every other byte register is as in `s`. -/
def HoldsReg (w : Width) (d : Reg) (v : BitVec w.bits) (s t : State) : Prop :=
  readReg w d t = v ∧ (w = .byte → ∀ k, k ≠ d → readByte k t = readByte k s)

/-- In `t` the operand `o`, at its place in `s`, holds `v`. -/
def HoldsOpd (w : Width) (o : Opd) (v : BitVec w.bits) (s t : State) : Prop :=
  match o with
  | .reg r => HoldsReg w r v s t
  | .mem m => peek w (memAddr m s) t = v

/-- From `s` to `t` nothing changes but the PC, FCW, the word registers `rs` of the current mode, the bytes of
memory `bytes`, and the I/O trace, which gains `events`; the next fetch is marked exactly when one of `bytes` is
guarded by `g` (20_memory.md R75). The counter of free values is not compared. -/
structure OnlyChanges (g : Guard) (rs : List Reg) (bytes : List Addr) (events : List IoEvent) (s t : State) :
    Prop where
  words : ∀ r, r ∉ rs → readWord r t = readWord r s
  normalBank : s.fcw.sn = true → t.r14n = s.r14n ∧ t.r15n = s.r15n
  systemBank : s.fcw.sn = false → t.r14s = s.r14s ∧ t.r15s = s.r15s
  memory : ∀ a, a ∉ bytes → byteAt t a = byteAt s a
  look : t.stale = (s.stale || bytes.any g.covers)
  trace : t.trace = s.trace ++ events
  psap : t.psap = s.psap
  refresh : t.refresh = s.refresh
  halted : t.halted = s.halted
  mo : t.mo = s.mo
  nmiPending : t.nmiPending = s.nmiPending
  requests : t.viReq = s.viReq ∧ t.nviReq = s.nviReq ∧ t.segtReq = s.segtReq ∧ t.resetReq = s.resetReq
  environment : t.ident = s.ident ∧ t.inputs = s.inputs ∧ t.map = s.map

/- Shapes of an effect. `flags` gives FCW after; a flag the spec leaves open is taken from its argument, the FCW
of the next state itself, and so is any value. -/

/-- The instruction completes and goes on to `pc`, changing registers `rs`, bytes `bytes`, the trace by `events`
and FCW; `holds` says what the changed parts hold. -/
def Effect (i : Instr) (s : State) (pc : Addr) (flags : Fcw → Fcw) (rs : List Reg) (bytes : List Addr)
    (events : List IoEvent) (holds : State → Prop) : Prop :=
  ∃ t, exec i s = .next t ∧ t.pc = pc ∧ t.fcw = flags t.fcw ∧ holds t ∧
    OnlyChanges (guardOf i s) rs bytes events s t

/-- A register of width `w` receives `v`. -/
def RegEffect (i : Instr) (s : State) (w : Width) (d : Reg) (v : BitVec w.bits) (flags : Fcw → Fcw) : Prop :=
  Effect i s (after i s) flags (homes w d) [] [] (HoldsReg w d v s)

/-- A register or memory operand of width `w` receives `v`. -/
def OpdEffect (i : Instr) (s : State) (w : Width) (o : Opd) (v : BitVec w.bits) (flags : Fcw → Fcw) : Prop :=
  Effect i s (after i s) flags (opdHomes w o) (opdBytes w o s) [] (HoldsOpd w o v s)

/-- The value of width `w` at address `a` becomes `v`. -/
def StoreEffect (i : Instr) (s : State) (w : Width) (a : Addr) (v : BitVec w.bits) : Prop :=
  Effect i s (after i s) (fun _ => s.fcw) [] (span w a) [] fun t => peek w a t = v

/-- Only flags (and the PC) change. -/
def FlagEffect (i : Instr) (s : State) (flags : Fcw → Fcw) : Prop :=
  Effect i s (after i s) flags [] [] [] fun _ => True

/-- Only the PC changes. -/
def JumpEffect (i : Instr) (s : State) (target : Addr) : Prop :=
  Effect i s target (fun _ => s.fcw) [] [] [] fun _ => True

/- Flags in terms of exact arithmetic (10_state.md R32). -/

/-- After `r = a + b + cin`: C the unsigned carry, V the signed result does not fit, H the carry out of bit 3;
D and H for the byte form only, D = 0. -/
def addFlags (w : Width) (a b : BitVec w.bits) (cin : Bool) (f : Fcw) : Fcw :=
  let r := a + b + BitVec.ofNat w.bits cin.toNat
  { f with
    c := decide (2 ^ w.bits ≤ a.toNat + b.toNat + cin.toNat)
    z := decide (r = 0)
    s := decide (r.toInt < 0)
    pv := decide (r.toInt ≠ a.toInt + b.toInt + cin.toNat)
    d := if w = .byte then false else f.d
    h := if w = .byte then decide (16 ≤ a.toNat % 16 + b.toNat % 16 + cin.toNat) else f.h }

/-- The flags C, Z, S, P/V after `r = a - b - bin`: C the unsigned borrow, V the signed result does not fit. -/
def cpFlags (w : Width) (a b : BitVec w.bits) (bin : Bool) (f : Fcw) : Fcw :=
  let r := a - b - BitVec.ofNat w.bits bin.toNat
  { f with
    c := decide (a.toNat < b.toNat + bin.toNat)
    z := decide (r = 0)
    s := decide (r.toInt < 0)
    pv := decide (r.toInt ≠ a.toInt - b.toInt - bin.toNat) }

/-- The flags after a subtraction: for the byte form D = 1 and H the borrow into bit 3. -/
def subFlags (w : Width) (a b : BitVec w.bits) (bin : Bool) (f : Fcw) : Fcw :=
  { cpFlags w a b bin f with
    d := if w = .byte then true else f.d
    h := if w = .byte then decide (a.toNat % 16 < b.toNat % 16 + bin.toNat) else f.h }

/-- An even number of 1 bits (10_state.md R32). -/
def evenOnes {n : Nat} (r : BitVec n) : Bool := decide (((List.range n).countP fun i => r.getLsbD i) % 2 = 0)

/-- The flags after a logical operation: Z, S; P/V is parity for the byte form only (42_logical_bit.md R180). -/
def logicFlags (w : Width) (r : BitVec w.bits) (f : Fcw) : Fcw :=
  { f with
    z := decide (r = 0)
    s := decide (r.toInt < 0)
    pv := if w = .byte then evenOnes r else f.pv }

/- Trap and interrupt entry (60_exceptions.md R332). -/

/-- The top of the system stack after a frame of four words is pushed (60_exceptions.md R330). -/
def frameAt (s : State) : Addr := offsetBy (addrOf (s.r14s ++ s.r15s)) (-8)

/-- The bytes of the frame. -/
def frameBytes (s : State) : List Addr :=
  span .word (frameAt s) ++ span .word (offsetBy (frameAt s) 2) ++ span .word (offsetBy (frameAt s) 4) ++
    span .word (offsetBy (frameAt s) 6)

/-- Where the new FCW of an event stands (60_exceptions.md R331). -/
def newFcwAt (e : Event) (s : State) : Addr := offsetBy s.psap (e.offset + 2)

/-- Where the new PC of an event stands (60_exceptions.md R331). -/
def newPcAt (e : Event) (id : Word) (s : State) : Addr := offsetBy s.psap (e.pcOffset id)

/-- The entry goes through: PSAP is 256-byte aligned, a vector is even, the frame is in writable memory at even
addresses, the entry of the program status area is in readable memory and not under the frame, and its FCW has
SEG = 1 (60_exceptions.md R331, R332, R345). -/
def entryReady (e : Event) (id : Word) (s : State) : Bool :=
  decide (s.psap.off.extractLsb' 0 8 = 0) && !(decide (e = .vectored) && id.getLsbD 0) &&
    canWrite .word (frameAt s) s && canWrite .word (offsetBy (frameAt s) 2) s &&
    canWrite .word (offsetBy (frameAt s) 4) s && canWrite .word (offsetBy (frameAt s) 6) s &&
    canRead .word (newFcwAt e s) s && canRead .long (newPcAt e id s) s &&
    (span .word (newFcwAt e s)).all (fun a => !(frameBytes s).contains a) &&
    (peek .word (newFcwAt e s) s).getLsbD 15

/-- What an entry leaves: the frame on the system stack, R15 of the system bank down by 8, FCW and PC from the
program status area; every other register, memory outside the frame and the pins' state are as before
(60_exceptions.md R332). -/
structure Entered (g : Guard) (e : Event) (id : Word) (spc : Addr) (s t : State) : Prop where
  identifier : peek .word (frameAt s) t = id
  savedFcw : Fcw.ofWord (peek .word (offsetBy (frameAt s) 2) t) = s.fcw
  savedSegment : (peek .word (offsetBy (frameAt s) 4) t).extractLsb' 8 7 = spc.seg
  savedOffset : peek .word (offsetBy (frameAt s) 6) t = spc.off
  fcw : t.fcw = Fcw.ofWord (peek .word (newFcwAt e s) t)
  pc : t.pc = addrOf (peek .long (newPcAt e id s) t)
  stack : t.r14s = s.r14s ∧ t.r15s = s.r15s - 8
  registers : t.gpr = s.gpr ∧ t.r14n = s.r14n ∧ t.r15n = s.r15n
  memory : ∀ a, a ∉ frameBytes s → byteAt t a = byteAt s a
  look : t.stale = (s.stale || (frameBytes s).any g.covers)
  nmi : t.nmiPending = (s.nmiPending && !decide (e = .nmi))
  rest : t.psap = s.psap ∧ t.refresh = s.refresh ∧ t.mo = s.mo ∧ t.trace = s.trace ∧ t.halted = s.halted
  requests : t.viReq = s.viReq ∧ t.nviReq = s.nviReq ∧ t.segtReq = s.segtReq ∧ t.resetReq = s.resetReq
  environment : t.ident = s.ident ∧ t.inputs = s.inputs ∧ t.map = s.map

end Sys2Proof
end

