-- ==== Sys2Proof/Certificates/Slice0/Obligations.lean ====
section
/-! DEFINITION. The statements for the provers. The definitions of the first part state a rule for one
constructor, width by width; each obligation of the second part names the constructors it holds for. -/

namespace Sys2Proof

open Machine

/- Arithmetic (41_arithmetic.md). -/

/-- `d <- d + src` (R162). -/
def AddSpec (w : Width) (mk : Reg → Src w.bits → Instr) : Prop :=
  ∀ (s : State) (d : Reg) (src : Src w.bits), srcReady w src s = true →
    RegEffect (mk d src) s w d (readReg w d s + srcValue w src s)
      fun _ => addFlags w (readReg w d s) (srcValue w src s) false s.fcw

/-- `d <- d - src` (R172). -/
def SubSpec (w : Width) (mk : Reg → Src w.bits → Instr) : Prop :=
  ∀ (s : State) (d : Reg) (src : Src w.bits), srcReady w src s = true →
    RegEffect (mk d src) s w d (readReg w d s - srcValue w src s)
      fun _ => subFlags w (readReg w d s) (srcValue w src s) false s.fcw

/-- `d <- d + s + C` (R161). -/
def AdcSpec (w : Width) (mk : Reg → Reg → Instr) : Prop :=
  ∀ (s : State) (d r : Reg),
    RegEffect (mk d r) s w d (readReg w d s + readReg w r s + BitVec.ofNat w.bits s.fcw.c.toNat)
      fun _ => addFlags w (readReg w d s) (readReg w r s) s.fcw.c s.fcw

/-- `d <- d - s - C` (R171). -/
def SbcSpec (w : Width) (mk : Reg → Reg → Instr) : Prop :=
  ∀ (s : State) (d r : Reg),
    RegEffect (mk d r) s w d (readReg w d s - readReg w r s - BitVec.ofNat w.bits s.fcw.c.toNat)
      fun _ => subFlags w (readReg w d s) (readReg w r s) s.fcw.c s.fcw

/-- The flags of `d - src`; nothing else is written (R163). -/
def CompareSpec (w : Width) (mk : Reg → Src w.bits → Instr) : Prop :=
  ∀ (s : State) (d : Reg) (src : Src w.bits), srcReady w src s = true →
    FlagEffect (mk d src) s fun _ => cpFlags w (readReg w d s) (srcValue w src s) false s.fcw

/-- The flags of a memory operand minus a constant (R163). -/
def CompareImmSpec (w : Width) (mk : Mem → BitVec w.bits → Instr) : Prop :=
  ∀ (s : State) (m : Mem) (v : BitVec w.bits), canRead w (memAddr m s) s = true →
    FlagEffect (mk m v) s fun _ => cpFlags w (peek w (memAddr m s) s) v false s.fcw

/-- `dst <- dst + n`, n = 1 to 16: Z, S and signed overflow; C, D, H unchanged (R168). -/
def IncSpec (w : Width) (mk : Opd → BitVec 4 → Instr) : Prop :=
  ∀ (s : State) (o : Opd) (n1 : BitVec 4), opdWritable w o s = true →
    let a := opdValue w o s
    let r := a + BitVec.ofNat w.bits (n1.toNat + 1)
    OpdEffect (mk o n1) s w o r fun _ =>
      { s.fcw with z := decide (r = 0), s := decide (r.toInt < 0), pv := decide (r.toInt ≠ a.toInt + (n1.toNat + 1)) }

/-- `dst <- dst - n`, n = 1 to 16 (R165). -/
def DecSpec (w : Width) (mk : Opd → BitVec 4 → Instr) : Prop :=
  ∀ (s : State) (o : Opd) (n1 : BitVec 4), opdWritable w o s = true →
    let a := opdValue w o s
    let r := a - BitVec.ofNat w.bits (n1.toNat + 1)
    OpdEffect (mk o n1) s w o r fun _ =>
      { s.fcw with z := decide (r = 0), s := decide (r.toInt < 0), pv := decide (r.toInt ≠ a.toInt - (n1.toNat + 1)) }

/-- `dst <- -dst`: C exactly when the operand was not zero, P/V exactly when it is the most negative value
(R170). -/
def NegSpec (w : Width) (mk : Opd → Instr) : Prop :=
  ∀ (s : State) (o : Opd), opdWritable w o s = true →
    let a := opdValue w o s
    OpdEffect (mk o) s w o (-a) fun _ =>
      { s.fcw with
        c := decide (a ≠ 0)
        z := decide (a = 0)
        s := decide ((-a).toInt < 0)
        pv := decide (a = BitVec.intMin w.bits) }

/-- The flags of a signed product whose low half has `h` bits (R169). -/
def productFlags (h : Nat) (p : Int) (f : Fcw) : Fcw :=
  { f with
    c := decide (p < -(2 ^ (h - 1) : Int) ∨ (2 ^ (h - 1) : Int) ≤ p)
    z := decide (p = 0)
    s := decide (p < 0)
    pv := false }

/-- The value fits in `h` bits as a signed number. -/
def fitsSigned (h : Nat) (q : Int) : Prop := -(2 ^ (h - 1) : Int) ≤ q ∧ q ≤ 2 ^ (h - 1) - 1

/-- A row of the correction table of DAB: D, C, the range of the high digit, H, the range of the low digit, the
value added, C after (R164). -/
def dabRows : List (Bool × Bool × (Nat × Nat) × Bool × (Nat × Nat) × Byte × Bool) :=
  [(false, false, (0, 9), false, (0, 9), 0x00, false),
   (false, false, (0, 8), false, (10, 15), 0x06, false),
   (false, false, (0, 9), true, (0, 3), 0x06, false),
   (false, false, (10, 15), false, (0, 9), 0x60, true),
   (false, false, (9, 15), false, (10, 15), 0x66, true),
   (false, false, (10, 15), true, (0, 3), 0x66, true),
   (false, true, (0, 2), false, (0, 9), 0x60, true),
   (false, true, (0, 2), false, (10, 15), 0x66, true),
   (false, true, (0, 3), true, (0, 3), 0x66, true),
   (true, false, (0, 9), false, (0, 9), 0x00, false),
   (true, false, (0, 8), true, (6, 15), 0xFA, false),
   (true, true, (7, 15), false, (0, 9), 0xA0, true),
   (true, true, (6, 15), true, (6, 15), 0x9A, true)]

/-- The row applies to the byte and the flags. -/
def dabFits (row : Bool × Bool × (Nat × Nat) × Bool × (Nat × Nat) × Byte × Bool) (v : Byte) (f : Fcw) : Prop :=
  row.1 = f.d ∧ row.2.1 = f.c ∧ (row.2.2.1.1 ≤ v.toNat / 16 ∧ v.toNat / 16 ≤ row.2.2.1.2) ∧ row.2.2.2.1 = f.h ∧
    (row.2.2.2.2.1.1 ≤ v.toNat % 16 ∧ v.toNat % 16 ≤ row.2.2.2.2.1.2)

/-- The byte that holds the number `n` below 100 as two decimal digits. -/
def bcd (n : Nat) : Byte := BitVec.ofNat 8 (16 * (n / 10) + n % 10)

/- Logical and bit instructions (42_logical_bit.md). -/

/-- `d <- d op src` (R181, R183, R185). -/
def LogicalSpec (w : Width) (op : BitVec w.bits → BitVec w.bits → BitVec w.bits) (mk : Reg → Src w.bits → Instr) :
    Prop :=
  ∀ (s : State) (d : Reg) (src : Src w.bits), srcReady w src s = true →
    let r := op (readReg w d s) (srcValue w src s)
    RegEffect (mk d src) s w d r fun _ => logicFlags w r s.fcw

/-- `dst <- ~dst` (R182). -/
def ComSpec (w : Width) (mk : Opd → Instr) : Prop :=
  ∀ (s : State) (o : Opd), opdWritable w o s = true →
    let r := ~~~(opdValue w o s)
    OpdEffect (mk o) s w o r fun _ => logicFlags w r s.fcw

/-- Z and S of the operand; P/V parity for the byte form, free for the others (R184). -/
def TestSpec (w : Width) (mk : Opd → Instr) : Prop :=
  ∀ (s : State) (o : Opd), opdReady w o s = true →
    let r := opdValue w o s
    FlagEffect (mk o) s fun u =>
      { s.fcw with z := decide (r = 0), s := decide (r.toInt < 0), pv := if w = .byte then evenOnes r else u.pv }

/-- Z is the complement of bit `b` of the operand; no other flag is written (R191). -/
def BitTestSpec (w : Width) (i : Instr) (s : State) (o : Opd) (b : Nat) : Prop :=
  opdReady w o s = true → FlagEffect i s fun _ => { s.fcw with z := !(opdValue w o s).getLsbD b }

/-- Bit `b` of the operand is set; no flag is written (R193). -/
def BitSetSpec (w : Width) (i : Instr) (s : State) (o : Opd) (b : Nat) : Prop :=
  opdWritable w o s = true → OpdEffect i s w o (opdValue w o s ||| BitVec.twoPow w.bits b) fun _ => s.fcw

/-- Bit `b` of the operand is cleared; no flag is written (R192). -/
def BitResetSpec (w : Width) (i : Instr) (s : State) (o : Opd) (b : Nat) : Prop :=
  opdWritable w o s = true → OpdEffect i s w o (opdValue w o s &&& ~~~(BitVec.twoPow w.bits b)) fun _ => s.fcw

/-- The bit number in a register: its low four bits, or three for a byte (R190). -/
def bitNumber (w : Width) (r : Reg) (s : State) : Nat :=
  if w = .byte then ((readWord r s).extractLsb' 0 3).toNat else ((readWord r s).extractLsb' 0 4).toNat

/-- S is the top bit of the operand, which becomes all ones (R195). -/
def TestAndSetSpec (w : Width) (mk : Opd → Instr) : Prop :=
  ∀ (s : State) (o : Opd), opdWritable w o s = true →
    OpdEffect (mk o) s w o (BitVec.allOnes w.bits) fun _ => { s.fcw with s := decide ((opdValue w o s).toInt < 0) }

/-- Bit 0 of the register is set when the condition holds (R186). -/
def TccSpec (w : Width) (mk : CC → Reg → Instr) : Prop :=
  ∀ (s : State) (cc : CC) (d : Reg),
    RegEffect (mk cc d) s w d (if cond cc s.fcw then readReg w d s ||| BitVec.twoPow w.bits 0 else readReg w d s)
      fun _ => s.fcw

/- Loads, stores, exchanges, the stack (40_load_exchange.md). -/

/-- `dst <- 0` (R141). -/
def ClearSpec (w : Width) (mk : Opd → Instr) : Prop :=
  ∀ (s : State) (o : Opd), opdWritable w o s = true → OpdEffect (mk o) s w o 0 fun _ => s.fcw

/-- `d <-> src`: the operand's address is the one before `d` is written (R142). -/
def ExchangeSpec (w : Width) (mk : Reg → Opd → Instr) : Prop :=
  ∀ (s : State) (d : Reg) (o : Opd), opdWritable w o s = true →
    Effect (mk d o) s (after (mk d o) s) (fun _ => s.fcw) (homes w d ++ opdHomes w o) (opdBytes w o s) [] fun t =>
      (match o with
        | .reg r => r ≠ d → readReg w r t = readReg w d s
        | .mem m => peek w (memAddr m s) t = readReg w d s) ∧
      readReg w d t = opdValue w o s ∧ (w = .byte → ∀ k, k ≠ d → o ≠ .reg k → readByte k t = readByte k s)

/-- A register receives the value of a source operand (R143). -/
def LoadSpec (w : Width) (mk : Reg → Src w.bits → Instr) : Prop :=
  ∀ (s : State) (d : Reg) (src : Src w.bits), srcReady w src s = true →
    RegEffect (mk d src) s w d (srcValue w src s) fun _ => s.fcw

/-- A register receives the value at an address (R143, R148). -/
def LoadFromSpec (w : Width) (i : Instr) (s : State) (d : Reg) (a : Addr) : Prop :=
  canRead w a s = true → RegEffect i s w d (peek w a s) fun _ => s.fcw

/-- The value at an address becomes `v` (R143, R148). -/
def StoreToSpec (w : Width) (i : Instr) (s : State) (a : Addr) (v : BitVec w.bits) : Prop :=
  canWrite w a s = true → StoreEffect i s w a v

/-- The address in a long register: segment in bits 14:8 of Rp, offset in Rp+1 (20_memory.md R61). -/
def addressIn (p : Reg) (s : State) : Addr := ⟨(readWord p s).extractLsb' 8 7, readWord (p + 1) s⟩

/-- The long register holds the address `a`, its reserved bits free (R144, R145). -/
def LoadAddressSpec (i : Instr) (s : State) (d : Reg) (a : Addr) : Prop :=
  Effect i s (after i s) (fun _ => s.fcw) (homes .long d) [] [] fun t => addressIn d t = a

/-- Push of a value: the offset of the pointer goes down by the operand's size, then the value is stored there
(R150). -/
def PushEffect (w : Width) (i : Instr) (s : State) (p : Reg) (v : BitVec w.bits) : Prop :=
  let a := offsetBy (addressIn p s) (-(BitVec.ofNat 16 w.bytes))
  canWrite w a s = true →
    Effect i s (after i s) (fun _ => s.fcw) [p + 1] (span w a) [] fun t =>
      peek w a t = v ∧ readWord (p + 1) t = readWord (p + 1) s - BitVec.ofNat 16 w.bytes

/-- PUSH and PUSHL of an operand; an operand that uses the pointer is refused (R150). -/
def PushSpec (w : Width) (mk : Reg → Opd → Instr) : Prop :=
  ∀ (s : State) (p : Reg) (o : Opd),
    if ∃ r ∈ opdRegs w o, r = p ∨ r = p + 1 then exec (mk p o) s = .refused .pushOverlap
    else opdReady w o s = true → PushEffect w (mk p o) s p (opdValue w o s)

/-- POP and POPL: the destination receives the value at the pointer, whose offset then goes up by the operand's
size; a destination that uses the pointer is refused (R149). -/
def PopSpec (w : Width) (mk : Opd → Reg → Instr) : Prop :=
  ∀ (s : State) (o : Opd) (p : Reg),
    if ∃ r ∈ opdRegs w o, r = p ∨ r = p + 1 then exec (mk o p) s = .refused .popOverlap
    else canRead w (addressIn p s) s = true → opdWritable w o s = true →
      Effect (mk o p) s (after (mk o p) s) (fun _ => s.fcw) ((p + 1) :: opdHomes w o) (opdBytes w o s) [] fun t =>
        HoldsOpd w o (peek w (addressIn p s) s) s t ∧
        readWord (p + 1) t = readWord (p + 1) s + BitVec.ofNat 16 w.bytes

/-- The address of the `k`-th word from `a`. -/
def wordAt (a : Addr) (k : Nat) : Addr := offsetBy a (BitVec.ofNat 16 (2 * k))

/-- The `k`-th register from `d`, wrapping from 15 to 0. -/
def regAt (d : Reg) (k : Nat) : Reg := d + BitVec.ofNat 4 k

/- Rotates and shifts (43_rotate_shift.md). -/

/-- `d` receives `r`; C is `c`; Z and S are those of `r`; P/V is `pv` of the FCW after. -/
def ShiftEffect (w : Width) (i : Instr) (s : State) (d : Reg) (r : BitVec w.bits) (c pv : Fcw → Bool) : Prop :=
  RegEffect i s w d r fun u => { s.fcw with c := c u, z := decide (r = 0), s := decide (r.toInt < 0), pv := pv u }

/-- The sign change of a rotate by one place or two: `v` before, `r1` after one place, `r` at the end; free when
the top bit changed and changed back (R200). -/
def rotateSign {n : Nat} (v r1 r : BitVec n) (free : Bool) : Bool :=
  if r.msb ≠ v.msb then true else if r1.msb = v.msb then false else free

/-- RL, RR and their byte forms: C is bit 0 of the result of RL, the top bit of the result of RR (R201, R204). -/
def RotateSpec (w : Width) (left : Bool) (mk : Reg → Bool → Instr) : Prop :=
  ∀ (s : State) (d : Reg) (two : Bool),
    let v := readReg w d s
    let turn := fun k : Nat => if left then v.rotateLeft k else v.rotateRight k
    let r := turn (if two then 2 else 1)
    ShiftEffect w (mk d two) s d r (fun _ => if left then r.getLsbD 0 else r.msb)
      fun u => rotateSign v (turn 1) r u.pv

/-- RLC, RRC and their byte forms: the W + 1 bits of C and the register rotate (R202, R205). -/
def RotateCarrySpec (w : Width) (left : Bool) (mk : Reg → Bool → Instr) : Prop :=
  ∀ (s : State) (d : Reg) (two : Bool),
    let v := readReg w d s
    let x : BitVec (1 + w.bits) := BitVec.ofBool s.fcw.c ++ v
    let turn := fun k : Nat => if left then x.rotateLeft k else x.rotateRight k
    let y := turn (if two then 2 else 1)
    ShiftEffect w (mk d two) s d (y.setWidth w.bits) (fun _ => y.msb)
      fun u => rotateSign v ((turn 1).setWidth w.bits) (y.setWidth w.bits) u.pv

/-- The result of a left shift by `n` places: C is the last bit shifted out, free for n = 0; P/V is free for SLL;
for SLA it is 1 when the top bit changed, 0 when it never did, free otherwise (R209, R210). -/
def LeftShiftEffect (w : Width) (arith : Bool) (i : Instr) (s : State) (d : Reg) (n : Nat) : Prop :=
  let v := readReg w d s
  let r := v <<< n
  ShiftEffect w i s d r (fun u => if n = 0 then u.c else v.getLsbD (w.bits - n)) fun u =>
    if arith = false then u.pv
    else if r.msb ≠ v.msb then true
    else if ∀ k ≤ n, (v <<< k).msb = v.msb then false
    else u.pv

/-- The result of a right shift by `n` places: C is bit n - 1; P/V is 0 for SRA, free for SRL (R211, R212). -/
def RightShiftEffect (w : Width) (arith : Bool) (i : Instr) (s : State) (d : Reg) (n : Nat) : Prop :=
  let v := readReg w d s
  ShiftEffect w i s d (if arith then v.sshiftRight n else v >>> n) (fun _ => v.getLsbD (n - 1)) fun u =>
    if arith then false else u.pv

/-- Static left shifts: n = 0 to W (R209, R210). -/
def LeftShiftSpec (w : Width) (arith : Bool) (mk : Reg → Nat → Instr) : Prop :=
  ∀ (s : State) (d : Reg) (n : Nat), n ≤ w.bits → LeftShiftEffect w arith (mk d n) s d n

/-- Static right shifts: n = 1 to W (R211, R212). -/
def RightShiftSpec (w : Width) (arith : Bool) (mk : Reg → Nat → Instr) : Prop :=
  ∀ (s : State) (d : Reg) (n : Nat), 1 ≤ n → n ≤ w.bits → RightShiftEffect w arith (mk d n) s d n

/-- Dynamic shifts by the signed count in a word register: beyond -W to +W the register and C, Z, S, P/V are free
(R207, R208). -/
def DynamicShiftSpec (w : Width) (arith : Bool) (mk : Reg → Reg → Instr) : Prop :=
  ∀ (s : State) (d r : Reg),
    let n := (readWord r s).toInt
    (0 ≤ n → n ≤ w.bits → LeftShiftEffect w arith (mk d r) s d n.toNat) ∧
    (n < 0 → -(w.bits : Int) ≤ n → RightShiftEffect w arith (mk d r) s d (-n).toNat) ∧
    ((w.bits : Int) < n ∨ n < -(w.bits : Int) →
      Effect (mk d r) s (after (mk d r) s) (fun u => { s.fcw with c := u.c, z := u.z, s := u.s, pv := u.pv })
        (homes w d) [] [] fun t => w = .byte → ∀ k, k ≠ d → readByte k t = readByte k s)

/- Block instructions (45_block_string.md). -/

/-- No word register is in two of the lists (R235). -/
def NoOverlap (regs : List (List Reg)) : Prop := regs.Pairwise fun xs ys => ∀ r, r ∈ xs → r ∉ ys

/-- The step of a pointer: one element up or down (R235). -/
def elementStep (w : Width) (up : Bool) : Word :=
  if up then BitVec.ofNat 16 w.bytes else -(BitVec.ofNat 16 w.bytes)

/-- The PC after an iteration: a repeating instruction that is not done is fetched again (R236). -/
def iterationPc (rep : Bool) (done : Bool) (i : Instr) (s : State) : Addr :=
  if rep = true ∧ done = false then s.pc else after i s

/-- The guarded bytes of an iteration: the word at `next_pc`, and the instruction's own two words when it repeats
(R236, 20_memory.md R75). -/
def iterationGuard (rep : Bool) (i : Instr) (s : State) : Guard :=
  if rep then ⟨s.pc, i.bytes + 2⟩ else guardOf i s

/-- One iteration of a block instruction: the count register `r` goes down by one, and P/V says that it became
zero. `done` also ends a repeating form. -/
def BlockEffect (rep : Bool) (i : Instr) (s : State) (r : Reg) (done : Bool) (flags : Fcw → Fcw) (regs : List Reg)
    (bytes : List Addr) (events : List IoEvent) (holds : State → Prop) : Prop :=
  ∃ t, exec i s = .next t ∧
    t.pc = iterationPc rep (done || decide (readWord r s = 1)) i s ∧
    t.fcw = { flags t.fcw with pv := decide (readWord r s = 1) } ∧
    readWord r t = readWord r s - 1 ∧ holds t ∧
    OnlyChanges (iterationGuard rep i s) (r :: regs) bytes events s t

/-- CPI, CPD: compares a register with an element (R237 to R240). -/
def CompareBlockSpec (w : Width) (up rep : Bool) (mk : Reg → Reg → Reg → CC → Instr) : Prop :=
  ∀ (s : State) (d p r : Reg) (cc : CC),
    (¬ NoOverlap [[p, p + 1], [r], homes w d] → exec (mk d p r cc) s = .refused .blockOverlap) ∧
    (NoOverlap [[p, p + 1], [r], homes w d] → canRead w (addressIn p s) s = true →
      let hit := cond cc (cpFlags w (readReg w d s) (peek w (addressIn p s) s) false s.fcw)
      BlockEffect rep (mk d p r cc) s r hit (fun u => { s.fcw with c := u.c, z := hit, s := u.s }) [p + 1] [] []
        fun t => readWord (p + 1) t = readWord (p + 1) s + elementStep w up)

/-- CPSI, CPSD: compares two elements, destination minus source (R241 to R244). -/
def CompareStringsSpec (w : Width) (up rep : Bool) (mk : Reg → Reg → Reg → CC → Instr) : Prop :=
  ∀ (s : State) (d p r : Reg) (cc : CC),
    (¬ NoOverlap [[d, d + 1], [p, p + 1], [r]] → exec (mk d p r cc) s = .refused .blockOverlap) ∧
    (NoOverlap [[d, d + 1], [p, p + 1], [r]] → canRead w (addressIn d s) s = true → canRead w (addressIn p s) s = true →
      let hit := cond cc (cpFlags w (peek w (addressIn d s) s) (peek w (addressIn p s) s) false s.fcw)
      BlockEffect rep (mk d p r cc) s r hit (fun u => { s.fcw with c := u.c, z := hit, s := u.s }) [d + 1, p + 1] [] []
        fun t =>
          readWord (d + 1) t = readWord (d + 1) s + elementStep w up ∧
          readWord (p + 1) t = readWord (p + 1) s + elementStep w up)

/-- LDI, LDD: moves an element; Z is free (R245 to R248). -/
def MoveSpec (w : Width) (up rep : Bool) (mk : Reg → Reg → Reg → Instr) : Prop :=
  ∀ (s : State) (d p r : Reg),
    (¬ NoOverlap [[d, d + 1], [p, p + 1], [r]] → exec (mk d p r) s = .refused .blockOverlap) ∧
    (NoOverlap [[d, d + 1], [p, p + 1], [r]] → canWrite w (addressIn d s) s = true → canRead w (addressIn p s) s = true →
      BlockEffect rep (mk d p r) s r false (fun u => { s.fcw with z := u.z }) [d + 1, p + 1] (span w (addressIn d s)) []
        fun t =>
          peek w (addressIn d s) t = peek w (addressIn p s) s ∧
          readWord (d + 1) t = readWord (d + 1) s + elementStep w up ∧
          readWord (p + 1) t = readWord (p + 1) s + elementStep w up)

/-- The entry of the table at RRp for the byte at RRd (R249, R253). -/
def tableEntry (d p : Reg) (s : State) : Addr :=
  offsetBy (addressIn p s) ((byteAt s (addressIn d s)).setWidth 16)

/-- TRIB, TRDB: the byte becomes its table entry; Z and RH1 are free, RL1 is kept (R249 to R252). -/
def TranslateSpec (up rep : Bool) (mk : Reg → Reg → Reg → Instr) : Prop :=
  ∀ (s : State) (d p r : Reg),
    (¬ NoOverlap [[d, d + 1], [p, p + 1], [r], [1]] → exec (mk d p r) s = .refused .blockOverlap) ∧
    (NoOverlap [[d, d + 1], [p, p + 1], [r], [1]] → canWrite .byte (addressIn d s) s = true →
      canRead .byte (tableEntry d p s) s = true →
      BlockEffect rep (mk d p r) s r false (fun u => { s.fcw with z := u.z }) [d + 1, 1] [addressIn d s] []
        fun t =>
          byteAt t (addressIn d s) = byteAt s (tableEntry d p s) ∧ readByte 9 t = readByte 9 s ∧
          readWord (d + 1) t = readWord (d + 1) s + elementStep .byte up)

/-- TRTIB, TRTDB: RH1 receives the table entry, Z says that it is zero (R253 to R256). -/
def TranslateTestSpec (up rep : Bool) (mk : Reg → Reg → Reg → Instr) : Prop :=
  ∀ (s : State) (d p r : Reg),
    (¬ NoOverlap [[d, d + 1], [p, p + 1], [r], [1]] → exec (mk d p r) s = .refused .blockOverlap) ∧
    (NoOverlap [[d, d + 1], [p, p + 1], [r], [1]] → canRead .byte (addressIn d s) s = true →
      canRead .byte (tableEntry d p s) s = true →
      let e := byteAt s (tableEntry d p s)
      BlockEffect rep (mk d p r) s r (decide (e ≠ 0)) (fun _ => { s.fcw with z := decide (e = 0) }) [d + 1, 1] [] []
        fun t =>
          readByte 1 t = e ∧ readByte 9 t = readByte 9 s ∧
          readWord (d + 1) t = readWord (d + 1) s + elementStep .byte up)

/- Input and output (46_input_output.md). -/

/-- The value a port gives, as the trace holds it. -/
def inEvent (sp : Space) (port : Word) (w : Width) (v : BitVec w.bits) : IoEvent := .inp sp port w (v.setWidth 16)

def outEvent (sp : Space) (port : Word) (w : Width) (v : BitVec w.bits) : IoEvent := .out sp port w (v.setWidth 16)

/-- In system mode the register receives some value, and the trace the event of that value (R266, R267). -/
def InputSpec (w : Width) (i : Instr) (s : State) (sp : Space) (port : Word) (d : Reg) : Prop :=
  s.fcw.sn = true → ∃ v : BitVec w.bits,
    Effect i s (after i s) (fun _ => s.fcw) (homes w d) [] [inEvent sp port w v] (HoldsReg w d v s)

/-- In system mode the trace receives the event of the register's value (R266, R274). -/
def OutputSpec (w : Width) (i : Instr) (s : State) (sp : Space) (port : Word) (r : Reg) : Prop :=
  s.fcw.sn = true → Effect i s (after i s) (fun _ => s.fcw) [] [] [outEvent sp port w (readReg w r s)] fun _ => True

/-- Block input: memory receives some value read from the port; the port register stays; Z is free
(R268 to R271). -/
def InputBlockSpec (w : Width) (sp : Space) (up rep : Bool) (mk : Reg → Reg → Reg → Instr) : Prop :=
  ∀ (s : State) (d p r : Reg), s.fcw.sn = true →
    (¬ NoOverlap [[d, d + 1], [p], [r]] → exec (mk d p r) s = .refused .blockOverlap) ∧
    (NoOverlap [[d, d + 1], [p], [r]] → canWrite w (addressIn d s) s = true → ∃ v : BitVec w.bits,
      BlockEffect rep (mk d p r) s r false (fun u => { s.fcw with z := u.z }) [d + 1] (span w (addressIn d s))
        [inEvent sp (readWord p s) w v] fun t =>
          peek w (addressIn d s) t = v ∧ readWord (d + 1) t = readWord (d + 1) s + elementStep w up)

/-- Block output: the trace receives the element; the port register stays; Z is free (R272, R273, R275, R276). -/
def OutputBlockSpec (w : Width) (sp : Space) (up rep : Bool) (mk : Reg → Reg → Reg → Instr) : Prop :=
  ∀ (s : State) (d p r : Reg), s.fcw.sn = true →
    (¬ NoOverlap [[d], [p, p + 1], [r]] → exec (mk d p r) s = .refused .blockOverlap) ∧
    (NoOverlap [[d], [p, p + 1], [r]] → canRead w (addressIn p s) s = true →
      BlockEffect rep (mk d p r) s r false (fun u => { s.fcw with z := u.z }) [p + 1] []
        [outEvent sp (readWord d s) w (peek w (addressIn p s) s)] fun t =>
          readWord (p + 1) t = readWord (p + 1) s + elementStep w up)

/- Program status (47_cpu_control.md, 60_exceptions.md). -/

/-- The instructions the card marks privileged, SC apart (60_exceptions.md R335). -/
def isPrivileged : Instr → Bool
  | .inbInd .. | .inInd .. | .outbInd .. | .outInd .. | .in_ .. | .inb .. | .sin .. | .sinb .. | .out .. | .outb ..
  | .sout .. | .soutb .. | .ldps .. | .halt | .iret | .mset | .mres | .mbit | .mreq .. | .di .. | .ei ..
  | .ldctlRead .. | .ldctlWrite .. | .ini .. | .inib .. | .sini .. | .sinib .. | .inir .. | .inirb .. | .sinir ..
  | .sinirb .. | .ind .. | .indb .. | .sind .. | .sindb .. | .indr .. | .indrb .. | .sindr .. | .sindrb .. | .outi ..
  | .outib .. | .souti .. | .soutib .. | .otir .. | .otirb .. | .sotir .. | .sotirb .. | .outd .. | .outdb ..
  | .soutd .. | .soutdb .. | .otdr .. | .otdrb .. | .sotdr .. | .sotdrb .. => true
  | _ => false

/-- The PC that the privileged and the extended instruction trap may save: `next_pc`, or the address of the second
word; which one is open (60_exceptions.md R346). -/
def TrapPcOf (i : Instr) (s : State) (spc : Addr) : Prop := spc = after i s ∨ spc = offsetBy s.pc 2

/-- The instruction enters the handler of `e`, and the entry completes. -/
def TrapsTo (i : Instr) (s : State) (e : Event) (spc : Addr) : Prop :=
  ∃ t, exec i s = .next t ∧ Entered (guardOf i s) e (firstWord i) spc s t

/-- A program status block at `a`: the words from `a` to `a + 6` can be read and its FCW has SEG = 1. -/
def statusReady (a : Addr) (s : State) : Bool :=
  canRead .word a s && canRead .word (offsetBy a 2) s && canRead .long (offsetBy a 4) s &&
    (peek .word (offsetBy a 2) s).getLsbD 15

/-- FCW and PC come from the program status block at `a`. -/
def StatusFrom (a : Addr) (s t : State) : Prop :=
  t.fcw = Fcw.ofWord (peek .word (offsetBy a 2) s) ∧ t.pc = addrOf (peek .long (offsetBy a 4) s)

/-- The words stand in readable memory from `a` on, at even offsets. -/
def WordsAt (a : Addr) (ws : List Word) (s : State) : Prop :=
  ∀ k, (h : k < ws.length) → canRead .word (wordAt a k) s = true ∧ peek .word (wordAt a k) s = ws[k]

/-- A step that neither resets nor takes an event nor waits, at an even PC with no store outstanding. -/
def AtInstruction (u : State) : Prop :=
  u.resetReq = false ∧ u.fcw.seg = true ∧ pendingEvent u = none ∧ u.halted = false ∧ u.stale = false ∧
    u.pc.off.getLsbD 0 = false

/-- What a divisor of zero, a quotient that fits and one that does not give (R166): `readD` and `readS` are the
destination after and before, `quot` and `rem` its halves after. -/
def DivideEffect (i : Instr) (s : State) (h : Nat) (n m : Int) (rs : List Reg) (same : State → Prop)
    (quot rem : State → Int) : Prop :=
  (m = 0 → Effect i s (after i s) (fun u => { s.fcw with c := false, z := true, s := u.s, pv := true }) rs [] [] same) ∧
  (m ≠ 0 → fitsSigned h (n.tdiv m) →
    Effect i s (after i s)
      (fun _ => { s.fcw with c := false, z := decide (n.tdiv m = 0), s := decide (n.tdiv m < 0), pv := false })
      rs [] [] fun t => quot t = n.tdiv m ∧ rem t = n.tmod m) ∧
  (m ≠ 0 → ¬ fitsSigned h (n.tdiv m) →
    Effect i s (after i s) (fun u => { s.fcw with c := u.c, z := u.z, s := u.s, pv := true }) rs [] [] fun _ => True)

/-- The word registers of a quad register. -/
def quadHomes (d : Reg) : List Reg := [d, d + 1, d + 2, d + 3]

/-- The offset of R15 goes down by four and the long word there holds the return address (R222, R223). -/
def CallEffect (i : Instr) (s : State) (target : Addr) : Prop :=
  let a := offsetBy (addressIn 14 s) (-4)
  canWrite .long a s = true →
    Effect i s target (fun _ => s.fcw) [15] (span .long a) [] fun t =>
      addrOf (peek .long a t) = after i s ∧ readWord 15 t = readWord 15 s - 4

/-- The count goes down by one; the jump back is taken while it is not zero (R224). -/
def CountJumpSpec (w : Width) (mk : Reg → BitVec 7 → Instr) : Prop :=
  ∀ (s : State) (r : Reg) (p : BitVec 7),
    let v := readReg w r s - 1
    Effect (mk r p) s (if v = 0 then after (mk r p) s else offsetBy (after (mk r p) s) (-(2 * p.setWidth 16)))
      (fun _ => s.fcw) (homes w r) [] [] (HoldsReg w r v s)

/-- Each named flag is changed by `op`; D, H and the control bits are not (47_cpu_control.md R291, R307, R309). -/
def FlagSetSpec (op : Bool → Bool → Bool) (mk : BitVec 4 → Instr) : Prop :=
  ∀ (s : State) (f : BitVec 4),
    FlagEffect (mk f) s fun _ =>
      { s.fcw with
        c := op s.fcw.c (f.getLsbD 3)
        z := op s.fcw.z (f.getLsbD 2)
        s := op s.fcw.s (f.getLsbD 1)
        pv := op s.fcw.pv (f.getLsbD 0) }

/-- An extended-instruction opcode traps with EPA = 0 and is refused with EPA = 1 (60_exceptions.md R334). -/
def ExtendedSpec (i : Instr) : Prop :=
  ∀ s : State,
    (s.fcw.epa = true → exec i s = .refused .epuPresent) ∧
    (s.fcw.epa = false → entryReady .extendedInstruction (firstWord i) s = true →
      ∃ spc, TrapPcOf i s spc ∧ TrapsTo i s .extendedInstruction spc)

end Sys2Proof

open Sys2Proof Sys2Proof.Machine

/-- A step at an instruction boundary without event runs the decoded instruction (60_exceptions.md R320). -/
def Obligations.StepRunsDecoded : Prop :=
  ∀ (s : State) (i : Instr) (rest : List Word), AtInstruction (sample s) →
    decodeWords (fetchWords 4 (sample s).pc (sample s)) = .ok (i, rest) →
    i.wf = true ∧ step s = exec i (sample s)

/-- A well-formed instruction whose encoding stands at the PC is what the step runs, whatever follows it in memory
(60_exceptions.md R320, 30_encoding.md R133). -/
def Obligations.StepRunsEncoded : Prop :=
  ∀ (s : State) (i : Instr), AtInstruction (sample s) → i.wf = true →
    WordsAt (sample s).pc (encode i) (sample s) → step s = exec i (sample s)

/-- Words the spec writes out decode to the instructions it says (45_block_string.md R248, 46_input_output.md R267,
R270, R273, 47_cpu_control.md R291, R292, R297, 44_program_control.md R224, R226, 30_encoding.md R93). -/
def Obligations.DecodesSpecWords : Prop :=
  decodeTableWord 16 0x8D07 = some .nop ∧
  decodeTableWord 32 0x0120BB41 = some (.ldir 2 4 1) ∧
  decodeTableWord 32 0x00403B14 = some (.in_ 1 0x0040) ∧
  decodeTableWord 32 0x01283B40 = some (.ini 2 4 1) ∧
  decodeTableWord 32 0x01403A22 = some (.otirb 4 2 1) ∧
  decodeTableWord 16 0x8DC5 = some (.comflg 0xC) ∧
  decodeTableWord 16 0x7C01 = some (.di true false) ∧
  decodeTableWord 16 0x7D1C = some (.ldctlWrite .psapseg 1) ∧
  decodeTableWord 16 0xF383 = some (.djnz 3 3) ∧
  decodeTableWord 16 0xE8FF = some (.jr .always 0xFF) ∧
  decodeTableWord 16 0x7F05 = some (.sc 5) ∧
  decodeTableWord 16 0x3600 = none

/-- Decoding the words of a well-formed instruction gives it back and leaves the words after it. -/
def Obligations.DecodeEncode : Prop :=
  ∀ (i : Instr) (rest : List Word), i.wf = true → decodeWords (encode i ++ rest) = .ok (i, rest)

/-- Whatever the decoder accepts is the encoding of the well-formed instruction it answers: no bit is dropped. -/
def Obligations.EncodeDecode : Prop :=
  ∀ (ws rest : List Word) (i : Instr), decodeWords ws = .ok (i, rest) → i.wf = true ∧ ws = encode i ++ rest

/-- Every step keeps memory in its canonical form and the machine segmented (10_state.md R33, R34). -/
def Obligations.InvariantHeld : Prop :=
  ∀ s t : State, Inv s → step s = .next t → Inv t

/-- The invariant holds at reset. -/
def Obligations.InvariantAtReset : Prop := Inv State.reset

/-- Canonical memories that read alike at every index are the same list. -/
def Obligations.CanonicalMemoryUnique : Prop :=
  ∀ m k : Memory, m.wf = true → k.wf = true → (∀ a, m.read a = k.read a) → m = k

/-- A store that answers is read back, its bytes most significant first, and no other byte changes
(20_memory.md R64, R65, R66). -/
def Obligations.StoredBytesReadBack : Prop :=
  ∀ (g : Guard) (w : Width) (a : Addr) (v : BitVec w.bits) (s t : State), store g w a v s = .next t →
    load w a t = .next v ∧
    (∀ k, k < w.bytes → byteAt t (offsetBy a (BitVec.ofNat 16 k)) = v.extractLsb' (8 * (w.bytes - 1 - k)) 8) ∧
    (∀ c, (∀ k, k < w.bytes → c ≠ offsetBy a (BitVec.ofNat 16 k)) → byteAt t c = byteAt s c)

/-- A word or long access at an odd offset is refused; an aligned access that touches an unpopulated byte has no next
state (20_memory.md R64, R65, R67). -/
def Obligations.AccessStops : Prop :=
  ∀ (g : Guard) (w : Width) (a : Addr) (v : BitVec w.bits) (s : State),
    (w ≠ .byte → a.off.toNat % 2 = 1 →
      load w a s = .refused .misaligned ∧ store g w a v s = .refused .misaligned) ∧
    ((w = .byte ∨ a.off.toNat % 2 = 0) → ∀ c ∈ span w a,
      (readable s c = false → load w a s = .fault .absentRead) ∧
      (writable s c = false → store g w a v s = .fault .absentWrite))

/-- What the views of the word registers read, and what a write through a view changes (10_state.md R22, R23). -/
def Obligations.RegisterViews : Prop :=
  ∀ s : State,
    (∀ n : BitVec 3, readByte (0#1 ++ n) s = (readWord (0#1 ++ n) s).extractLsb' 8 8 ∧
      readByte (1#1 ++ n) s = (readWord (0#1 ++ n) s).extractLsb' 0 8) ∧
    (∀ (w : Width) (d : Reg) (v : BitVec w.bits), HoldsReg w d v s (writeReg w d v s) ∧
      ∀ r, r ∉ homes w d → readWord r (writeReg w d v s) = readWord r s) ∧
    (∀ (d : Reg) (v : Long), readWord d (writeReg .long d v s) = v.extractLsb' 16 16 ∧
      readWord (d + 1) (writeReg .long d v s) = v.extractLsb' 0 16) ∧
    (∀ (d : Reg) (v : Quad), readQuad d (writeQuad d v s) = v ∧ readLong d (writeQuad d v s) = v.extractLsb' 32 32 ∧
      readLong (d + 2) (writeQuad d v s) = v.extractLsb' 0 32)

/-- R14 and R15 are the copies of the current mode; a write never touches the other mode's copies (10_state.md R24). -/
def Obligations.RegisterBanks : Prop :=
  ∀ (s : State) (r : Reg) (v : Word),
    (s.fcw.sn = true → readWord 14 s = s.r14s ∧ readWord 15 s = s.r15s ∧
      (writeWord r v s).r14n = s.r14n ∧ (writeWord r v s).r15n = s.r15n) ∧
    (s.fcw.sn = false → readWord 14 s = s.r14n ∧ readWord 15 s = s.r15n ∧
      (writeWord r v s).r14s = s.r14s ∧ (writeWord r v s).r15s = s.r15s)

/-- The conditions after a compare are the orders they are named for; a code plus 8 is the negation
(44_program_control.md R221, 41_arithmetic.md R163). -/
def Obligations.ConditionMeanings : Prop :=
  (∀ (w : Width) (a b : BitVec w.bits) (f : Fcw),
    let x := cpFlags w a b false f
    cond .lt x = decide (a.toInt < b.toInt) ∧ cond .le x = decide (a.toInt ≤ b.toInt) ∧
    cond .ge x = decide (b.toInt ≤ a.toInt) ∧ cond .gt x = decide (b.toInt < a.toInt) ∧
    cond .ult x = decide (a.toNat < b.toNat) ∧ cond .ule x = decide (a.toNat ≤ b.toNat) ∧
    cond .uge x = decide (b.toNat ≤ a.toNat) ∧ cond .ugt x = decide (b.toNat < a.toNat) ∧
    cond .eq x = decide (a = b) ∧ cond .ne x = decide (a ≠ b)) ∧
  (∀ (c : BitVec 4) (f : Fcw), cond (CC.ofBits (c + 8)) f = !cond (CC.ofBits c) f) ∧
  (∀ f : Fcw, cond .never f = false ∧ cond .ov f = f.pv ∧ cond .mi f = f.s ∧ cond .eq f = f.z ∧ cond .ult f = f.c)

/-- What the fetch refuses: the word after a store into it, an odd PC, a reserved encoding, a first word that begins no
instruction, whatever words follow it, or none; and a first word outside populated memory has no step
(20_memory.md R75, 10_state.md R28, 30_encoding.md R130, R132, R133, 60_exceptions.md R320). -/
def Obligations.FetchStops : Prop :=
  ∀ s : State, (sample s).resetReq = false → (sample s).fcw.seg = true → pendingEvent (sample s) = none →
    (sample s).halted = false →
    let u := sample s
    (u.stale = true → step s = .refused .storeIntoNextWord) ∧
    (u.stale = false → u.pc.off.toNat % 2 = 1 → step s = .refused .misaligned) ∧
    (u.stale = false → u.pc.off.toNat % 2 = 0 →
      (∀ why, decodeWords (fetchWords 4 u.pc u) = .error (.reserved why) → step s = .refused (.reservedEncoding why)) ∧
      (canRead .word u.pc u = true → (∀ ws i rest, decodeWords (peek .word u.pc u :: ws) ≠ .ok (i, rest)) →
        ∃ why, step s = .refused (.reservedEncoding why)) ∧
      (canRead .word u.pc u = false → step s = .fault .absentFetch))

/-- ADD, ADDB, ADDL, ADC, ADCB: result, flags and frame (41_arithmetic.md R161, R162, 10_state.md R32). -/
def Obligations.AdditionResults : Prop :=
  AddSpec .byte .addb ∧ AddSpec .word .add ∧ AddSpec .long .addl ∧ AdcSpec .byte .adcb ∧ AdcSpec .word .adc

/-- SUB, SUBB, SUBL, SBC, SBCB: result, flags and frame (41_arithmetic.md R171, R172). -/
def Obligations.SubtractionResults : Prop :=
  SubSpec .byte .subb ∧ SubSpec .word .sub ∧ SubSpec .long .subl ∧ SbcSpec .byte .sbcb ∧ SbcSpec .word .sbc

/-- CP, CPB, CPL in both forms: only C, Z, S and P/V change (41_arithmetic.md R163). -/
def Obligations.CompareResults : Prop :=
  CompareSpec .byte .cpb ∧ CompareSpec .word .cp ∧ CompareSpec .long .cpl ∧
  CompareImmSpec .byte .cpbImm ∧ CompareImmSpec .word .cpImm

/-- INC, INCB, DEC, DECB: C, D and H do not change (41_arithmetic.md R165, R168). -/
def Obligations.IncrementDecrementResults : Prop :=
  IncSpec .byte .incb ∧ IncSpec .word .inc ∧ DecSpec .byte .decb ∧ DecSpec .word .dec

/-- NEG, NEGB, COM, COMB (41_arithmetic.md R170, 42_logical_bit.md R182). -/
def Obligations.NegateComplementResults : Prop :=
  NegSpec .byte .negb ∧ NegSpec .word .neg ∧ ComSpec .byte .comb ∧ ComSpec .word .com

/-- MULT and MULTL: the signed product in twice the width, C when it does not fit in the low half
(41_arithmetic.md R169). -/
def Obligations.MultiplyResults : Prop :=
  (∀ (s : State) (d : Reg) (src : Src 16), srcReady .word src s = true →
    let p := (readWord (d + 1) s).toInt * BitVec.toInt (srcValue .word src s)
    Effect (.mult d src) s (after (.mult d src) s) (fun _ => productFlags 16 p s.fcw) (homes .long d) [] []
      fun t => (readLong d t).toInt = p) ∧
  (∀ (s : State) (d : Reg) (src : Src 32), srcReady .long src s = true →
    let p := (readLong (d + 2) s).toInt * BitVec.toInt (srcValue .long src s)
    Effect (.multl d src) s (after (.multl d src) s) (fun _ => productFlags 32 p s.fcw) (quadHomes d) [] []
      fun t => (readQuad d t).toInt = p)

/-- DIV and DIVL: quotient in the low half, remainder in the high half; a divisor of zero and a quotient that does not
fit are reported by flags (41_arithmetic.md R166). -/
def Obligations.DivideResults : Prop :=
  (∀ (s : State) (d : Reg) (src : Src 16), srcReady .word src s = true →
    DivideEffect (.div d src) s 16 (readLong d s).toInt (BitVec.toInt (srcValue .word src s)) (homes .long d)
      (fun t => readLong d t = readLong d s) (fun t => (readWord (d + 1) t).toInt) fun t => (readWord d t).toInt) ∧
  (∀ (s : State) (d : Reg) (src : Src 32), srcReady .long src s = true →
    DivideEffect (.divl d src) s 32 (readQuad d s).toInt (BitVec.toInt (srcValue .long src s)) (quadHomes d)
      (fun t => readQuad d t = readQuad d s) (fun t => (readLong (d + 2) t).toInt) fun t => (readLong d t).toInt)

/-- EXTSB, EXTS, EXTSL: the signed value of the low half in the whole register; no flag (41_arithmetic.md R167). -/
def Obligations.SignExtensionResults : Prop :=
  ∀ (s : State) (d : Reg),
    Effect (.extsb d) s (after (.extsb d) s) (fun _ => s.fcw) [d] [] []
      (fun t => (readWord d t).toInt = ((readWord d s).extractLsb' 0 8).toInt) ∧
    Effect (.exts d) s (after (.exts d) s) (fun _ => s.fcw) (homes .long d) [] []
      (fun t => (readLong d t).toInt = (readWord (d + 1) s).toInt) ∧
    Effect (.extsl d) s (after (.extsl d) s) (fun _ => s.fcw) (quadHomes d) [] []
      fun t => (readQuad d t).toInt = (readLong (d + 2) s).toInt

/-- DAB: a row of the table that fits gives the byte, C, Z and S; with none they are free (41_arithmetic.md R164). -/
def Obligations.DecimalAdjustResult : Prop :=
  ∀ (s : State) (d : Reg),
    (∀ row ∈ dabRows, dabFits row (readByte d s) s.fcw →
      let r := readByte d s + row.2.2.2.2.2.1
      RegEffect (.dab d) s .byte d r fun _ =>
        { s.fcw with c := row.2.2.2.2.2.2, z := decide (r = 0), s := decide (r.toInt < 0) }) ∧
    ((∀ row ∈ dabRows, ¬ dabFits row (readByte d s) s.fcw) →
      Effect (.dab d) s (after (.dab d) s) (fun u => { s.fcw with c := u.c, z := u.z, s := u.s }) (homes .byte d) [] []
        fun t => ∀ k, k ≠ d → readByte k t = readByte k s)

/-- After the addition or subtraction of two bytes of two decimal digits, with any carry or borrow in, DAB gives the
two digits of the sum or difference and C its carry or borrow (41_arithmetic.md R164). -/
def Obligations.DecimalAdjustCorrects : Prop :=
  ∀ (x y : Nat) (cin : Bool), x < 100 → y < 100 →
    (∃ k, dabLookup (addW (bcd x) (bcd y) cin).r false (addW (bcd x) (bcd y) cin).c (addW (bcd x) (bcd y) cin).h =
        some (k, decide (100 ≤ x + y + cin.toNat)) ∧
      (addW (bcd x) (bcd y) cin).r + k = bcd ((x + y + cin.toNat) % 100)) ∧
    (∃ k, dabLookup (subW (bcd x) (bcd y) cin).r true (subW (bcd x) (bcd y) cin).c (subW (bcd x) (bcd y) cin).h =
        some (k, decide (x < y + cin.toNat)) ∧
      (subW (bcd x) (bcd y) cin).r + k = bcd ((100 + x - y - cin.toNat) % 100))

/-- AND, OR, XOR and their byte forms: C, D and H do not change, P/V is parity for bytes only
(42_logical_bit.md R180, R181, R183, R185). -/
def Obligations.LogicalResults : Prop :=
  LogicalSpec .byte (· &&& ·) .andb ∧ LogicalSpec .word (· &&& ·) .and ∧
  LogicalSpec .byte (· ||| ·) .orb ∧ LogicalSpec .word (· ||| ·) .or ∧
  LogicalSpec .byte (· ^^^ ·) .xorb ∧ LogicalSpec .word (· ^^^ ·) .xor

/-- TEST, TESTB, TESTL, BIT, BITB: nothing but flags is written (42_logical_bit.md R184, R190, R191). -/
def Obligations.TestResults : Prop :=
  TestSpec .byte .testb ∧ TestSpec .word .test ∧ TestSpec .long .testl ∧
  (∀ (s : State) (o : Opd) (b : BitVec 3), BitTestSpec .byte (.bitb o b) s o b.toNat) ∧
  (∀ (s : State) (o : Opd) (b : BitVec 4), BitTestSpec .word (.bit o b) s o b.toNat) ∧
  (∀ (s : State) (d r : Reg), BitTestSpec .byte (.bitbDyn d r) s (.reg d) (bitNumber .byte r s)) ∧
  (∀ (s : State) (d r : Reg), BitTestSpec .word (.bitDyn d r) s (.reg d) (bitNumber .word r s))

/-- SET, RES, TSET, TCC and their byte forms (42_logical_bit.md R186, R190, R192, R193, R195). -/
def Obligations.BitWriteResults : Prop :=
  (∀ (s : State) (o : Opd) (b : BitVec 3), BitSetSpec .byte (.setb o b) s o b.toNat) ∧
  (∀ (s : State) (o : Opd) (b : BitVec 4), BitSetSpec .word (.set o b) s o b.toNat) ∧
  (∀ (s : State) (d r : Reg), BitSetSpec .byte (.setbDyn d r) s (.reg d) (bitNumber .byte r s)) ∧
  (∀ (s : State) (d r : Reg), BitSetSpec .word (.setDyn d r) s (.reg d) (bitNumber .word r s)) ∧
  (∀ (s : State) (o : Opd) (b : BitVec 3), BitResetSpec .byte (.resb o b) s o b.toNat) ∧
  (∀ (s : State) (o : Opd) (b : BitVec 4), BitResetSpec .word (.res o b) s o b.toNat) ∧
  (∀ (s : State) (d r : Reg), BitResetSpec .byte (.resbDyn d r) s (.reg d) (bitNumber .byte r s)) ∧
  (∀ (s : State) (d r : Reg), BitResetSpec .word (.resDyn d r) s (.reg d) (bitNumber .word r s)) ∧
  TestAndSetSpec .byte .tsetb ∧ TestAndSetSpec .word .tset ∧ TccSpec .byte .tccb ∧ TccSpec .word .tcc

/-- CLR, CLRB, EX, EXB: no flag (40_load_exchange.md R141, R142). -/
def Obligations.ClearExchangeResults : Prop :=
  ClearSpec .byte .clrb ∧ ClearSpec .word .clr ∧ ExchangeSpec .byte .exb ∧ ExchangeSpec .word .ex

/-- Every form of LD, LDB, LDL, LDR and LDK that writes a register (40_load_exchange.md R143, R146, R148,
30_encoding.md R106, R107, R108). -/
def Obligations.LoadResults : Prop :=
  LoadSpec .byte .ldb ∧ LoadSpec .word .ld ∧ LoadSpec .long .ldl ∧
  (∀ (s : State) (d : Reg) (v : Byte), RegEffect (.ldbShort d v) s .byte d v fun _ => s.fcw) ∧
  (∀ (s : State) (d : Reg) (n : BitVec 4), RegEffect (.ldk d n) s .word d (n.setWidth 16) fun _ => s.fcw) ∧
  (∀ (s : State) (d p : Reg) (disp : Word),
    LoadFromSpec .byte (.ldbBA d p disp) s d (offsetBy (addressIn p s) disp) ∧
    LoadFromSpec .word (.ldBA d p disp) s d (offsetBy (addressIn p s) disp) ∧
    LoadFromSpec .long (.ldlBA d p disp) s d (offsetBy (addressIn p s) disp)) ∧
  (∀ (s : State) (d p x : Reg),
    LoadFromSpec .byte (.ldbBX d p x) s d (offsetBy (addressIn p s) (readWord x s)) ∧
    LoadFromSpec .word (.ldBX d p x) s d (offsetBy (addressIn p s) (readWord x s)) ∧
    LoadFromSpec .long (.ldlBX d p x) s d (offsetBy (addressIn p s) (readWord x s))) ∧
  (∀ (s : State) (d : Reg) (disp : Word),
    LoadFromSpec .byte (.ldrbLoad d disp) s d (offsetBy (after (.ldrbLoad d disp) s) disp) ∧
    LoadFromSpec .word (.ldrLoad d disp) s d (offsetBy (after (.ldrLoad d disp) s) disp) ∧
    LoadFromSpec .long (.ldrlLoad d disp) s d (offsetBy (after (.ldrlLoad d disp) s) disp))

/-- Every form of LD, LDB, LDL and LDR that writes memory: the stored bytes are at the operand's address, computed
before the instruction (40_load_exchange.md R143, R148). -/
def Obligations.StoreResults : Prop :=
  (∀ (s : State) (m : Mem) (r : Reg),
    StoreToSpec .byte (.ldbStore m r) s (memAddr m s) (readByte r s) ∧
    StoreToSpec .word (.ldStore m r) s (memAddr m s) (readWord r s) ∧
    StoreToSpec .long (.ldlStore m r) s (memAddr m s) (readLong r s)) ∧
  (∀ (s : State) (m : Mem) (v : Byte), StoreToSpec .byte (.ldbImm m v) s (memAddr m s) v) ∧
  (∀ (s : State) (m : Mem) (v : Word), StoreToSpec .word (.ldImm m v) s (memAddr m s) v) ∧
  (∀ (s : State) (p r : Reg) (disp : Word),
    StoreToSpec .byte (.ldbStoreBA p disp r) s (offsetBy (addressIn p s) disp) (readByte r s) ∧
    StoreToSpec .word (.ldStoreBA p disp r) s (offsetBy (addressIn p s) disp) (readWord r s) ∧
    StoreToSpec .long (.ldlStoreBA p disp r) s (offsetBy (addressIn p s) disp) (readLong r s)) ∧
  (∀ (s : State) (p x r : Reg),
    StoreToSpec .byte (.ldbStoreBX p x r) s (offsetBy (addressIn p s) (readWord x s)) (readByte r s) ∧
    StoreToSpec .word (.ldStoreBX p x r) s (offsetBy (addressIn p s) (readWord x s)) (readWord r s) ∧
    StoreToSpec .long (.ldlStoreBX p x r) s (offsetBy (addressIn p s) (readWord x s)) (readLong r s)) ∧
  (∀ (s : State) (r : Reg) (disp : Word),
    StoreToSpec .byte (.ldrbStore disp r) s (offsetBy (after (.ldrbStore disp r) s) disp) (readByte r s) ∧
    StoreToSpec .word (.ldrStore disp r) s (offsetBy (after (.ldrStore disp r) s) disp) (readWord r s) ∧
    StoreToSpec .long (.ldrlStore disp r) s (offsetBy (after (.ldrlStore disp r) s) disp) (readLong r s))

/-- LDA and LDAR: the effective address, no memory access (40_load_exchange.md R144, R145, 20_memory.md R61). -/
def Obligations.LoadAddressResults : Prop :=
  ∀ (s : State) (d : Reg),
    (∀ a : AddrForm, LoadAddressSpec (.lda d (.da a)) s d a.addr) ∧
    (∀ (x : Reg) (a : AddrForm), LoadAddressSpec (.lda d (.idx x a)) s d (offsetBy a.addr (readWord x s))) ∧
    (∀ (p : Reg) (disp : Word), LoadAddressSpec (.ldaBA d p disp) s d (offsetBy (addressIn p s) disp)) ∧
    (∀ p x : Reg, LoadAddressSpec (.ldaBX d p x) s d (offsetBy (addressIn p s) (readWord x s))) ∧
    (∀ disp : Word, LoadAddressSpec (.ldar d disp) s d (offsetBy (after (.ldar d disp) s) disp))

/-- PUSH of an immediate or an operand, and PUSHL (40_load_exchange.md R150, 20_memory.md R78). -/
def Obligations.PushResults : Prop :=
  (∀ (s : State) (p : Reg) (v : Word), PushEffect .word (.pushImm p v) s p v) ∧
  PushSpec .word .push ∧ PushSpec .long .pushl

/-- POP and POPL (40_load_exchange.md R149, 20_memory.md R78). -/
def Obligations.PopResults : Prop := PopSpec .word .pop ∧ PopSpec .long .popl

/-- LDM to registers: ascending addresses into ascending registers, wrapping from R15 to R0; an address register
among them is refused (40_load_exchange.md R147). -/
def Obligations.LoadMultipleResult : Prop :=
  ∀ (s : State) (d : Reg) (m : Mem) (n1 : BitVec 4),
    ((∃ r ∈ memRegs m, ∃ k ≤ n1.toNat, r = regAt d k) → exec (.ldmLoad d m n1) s = .refused .ldmOverlap) ∧
    ((∀ r ∈ memRegs m, ∀ k ≤ n1.toNat, r ≠ regAt d k) →
      (∀ k ≤ n1.toNat, canRead .word (wordAt (memAddr m s) k) s = true) →
      Effect (.ldmLoad d m n1) s (after (.ldmLoad d m n1) s) (fun _ => s.fcw)
        ((List.range (n1.toNat + 1)).map (regAt d)) [] [] fun t =>
          ∀ k ≤ n1.toNat, readWord (regAt d k) t = peek .word (wordAt (memAddr m s) k) s)

/-- LDM to memory (40_load_exchange.md R147). -/
def Obligations.StoreMultipleResult : Prop :=
  ∀ (s : State) (m : Mem) (r : Reg) (n1 : BitVec 4),
    (∀ k ≤ n1.toNat, canWrite .word (wordAt (memAddr m s) k) s = true) →
    Effect (.ldmStore m r n1) s (after (.ldmStore m r n1) s) (fun _ => s.fcw) []
      ((List.range (n1.toNat + 1)).flatMap fun k => span .word (wordAt (memAddr m s) k)) [] fun t =>
        ∀ k ≤ n1.toNat, peek .word (wordAt (memAddr m s) k) t = readWord (regAt r k) s

/-- RL, RR, RLC, RRC and their byte forms (43_rotate_shift.md R200, R201, R202, R204, R205). -/
def Obligations.RotateResults : Prop :=
  RotateSpec .byte true .rlb ∧ RotateSpec .word true .rl ∧ RotateSpec .byte false .rrb ∧ RotateSpec .word false .rr ∧
  RotateCarrySpec .byte true .rlcb ∧ RotateCarrySpec .word true .rlc ∧
  RotateCarrySpec .byte false .rrcb ∧ RotateCarrySpec .word false .rrc

/-- RLDB and RRDB: three digits rotate; S is free; the same byte register for both leaves the byte, Z and S free
(43_rotate_shift.md R203, R206). -/
def Obligations.DigitRotateResults : Prop :=
  ∀ (s : State) (l r : Reg),
    let a := readByte l s
    let b := readByte r s
    (l ≠ r →
      (Effect (.rldb l r) s (after (.rldb l r) s)
        (fun u => { s.fcw with z := decide ((a.extractLsb' 4 4 ++ b.extractLsb' 4 4 : Byte) = 0), s := u.s })
        (homes .byte l ++ homes .byte r) [] [] fun t =>
          readByte l t = a.extractLsb' 4 4 ++ b.extractLsb' 4 4 ∧
          readByte r t = b.extractLsb' 0 4 ++ a.extractLsb' 0 4 ∧
          ∀ k, k ≠ l → k ≠ r → readByte k t = readByte k s) ∧
      (Effect (.rrdb l r) s (after (.rrdb l r) s)
        (fun u => { s.fcw with z := decide ((a.extractLsb' 4 4 ++ b.extractLsb' 0 4 : Byte) = 0), s := u.s })
        (homes .byte l ++ homes .byte r) [] [] fun t =>
          readByte l t = a.extractLsb' 4 4 ++ b.extractLsb' 0 4 ∧
          readByte r t = a.extractLsb' 0 4 ++ b.extractLsb' 4 4 ∧
          ∀ k, k ≠ l → k ≠ r → readByte k t = readByte k s)) ∧
    (∀ i ∈ [Instr.rldb l l, Instr.rrdb l l],
      Effect i s (after i s) (fun u => { s.fcw with z := u.z, s := u.s }) (homes .byte l) [] []
        fun t => ∀ k, k ≠ l → readByte k t = readByte k s)

/-- SLA, SLL, SRA, SRL of every width by a static count (43_rotate_shift.md R200, R209, R210, R211, R212). -/
def Obligations.StaticShiftResults : Prop :=
  LeftShiftSpec .byte true .slab ∧ LeftShiftSpec .word true .sla ∧ LeftShiftSpec .long true .slal ∧
  LeftShiftSpec .byte false .sllb ∧ LeftShiftSpec .word false .sll ∧ LeftShiftSpec .long false .slll ∧
  RightShiftSpec .byte true .srab ∧ RightShiftSpec .word true .sra ∧ RightShiftSpec .long true .sral ∧
  RightShiftSpec .byte false .srlb ∧ RightShiftSpec .word false .srl ∧ RightShiftSpec .long false .srll

/-- SDA, SDL of every width by the count in a register (43_rotate_shift.md R200, R207, R208). -/
def Obligations.DynamicShiftResults : Prop :=
  DynamicShiftSpec .byte true .sdab ∧ DynamicShiftSpec .word true .sda ∧ DynamicShiftSpec .long true .sdal ∧
  DynamicShiftSpec .byte false .sdlb ∧ DynamicShiftSpec .word false .sdl ∧ DynamicShiftSpec .long false .sdll

/-- JP, JR, DJNZ, DBJNZ: no flag, no register but the count (44_program_control.md R224, R225, R226). -/
def Obligations.JumpResults : Prop :=
  (∀ (s : State) (cc : CC) (m : Mem),
    JumpEffect (.jp cc m) s (if cond cc s.fcw then memAddr m s else after (.jp cc m) s)) ∧
  (∀ (s : State) (cc : CC) (p : Byte),
    JumpEffect (.jr cc p) s
      (if cond cc s.fcw then offsetBy (after (.jr cc p) s) (BitVec.ofInt 16 (2 * p.toInt)) else after (.jr cc p) s)) ∧
  CountJumpSpec .word .djnz ∧ CountJumpSpec .byte .dbjnz

/-- CALL and CALR: the return address on the current stack (44_program_control.md R222, R223). -/
def Obligations.CallResults : Prop :=
  (∀ (s : State) (m : Mem), CallEffect (.call m) s (memAddr m s)) ∧
  (∀ (s : State) (p : BitVec 12),
    CallEffect (.calr p) s (offsetBy (after (.calr p) s) (BitVec.ofInt 16 (-(2 * p.toInt)))))

/-- RET, and that it undoes a CALL (44_program_control.md R222, R227). -/
def Obligations.ReturnResults : Prop :=
  (∀ (s : State) (cc : CC), cond cc s.fcw = false → JumpEffect (.ret cc) s (after (.ret cc) s)) ∧
  (∀ (s : State) (cc : CC), cond cc s.fcw = true → canRead .long (addressIn 14 s) s = true →
    Effect (.ret cc) s (addrOf (peek .long (addressIn 14 s) s)) (fun _ => s.fcw) [15] [] []
      fun t => readWord 15 t = readWord 15 s + 4) ∧
  (∀ (s t : State) (m : Mem), exec (.call m) s = .next t →
    ∃ u, exec (.ret .always) t = .next u ∧ u.pc = after (.call m) s ∧ ∀ r, readWord r u = readWord r s)

/-- The eight compares of a register with a block (45_block_string.md R235 to R240). -/
def Obligations.BlockCompareResults : Prop :=
  CompareBlockSpec .byte true false .cpib ∧ CompareBlockSpec .word true false .cpi ∧
  CompareBlockSpec .byte true true .cpirb ∧ CompareBlockSpec .word true true .cpir ∧
  CompareBlockSpec .byte false false .cpdb ∧ CompareBlockSpec .word false false .cpd ∧
  CompareBlockSpec .byte false true .cpdrb ∧ CompareBlockSpec .word false true .cpdr

/-- The eight compares of two strings (45_block_string.md R235, R236, R241 to R244). -/
def Obligations.StringCompareResults : Prop :=
  CompareStringsSpec .byte true false .cpsib ∧ CompareStringsSpec .word true false .cpsi ∧
  CompareStringsSpec .byte true true .cpsirb ∧ CompareStringsSpec .word true true .cpsir ∧
  CompareStringsSpec .byte false false .cpsdb ∧ CompareStringsSpec .word false false .cpsd ∧
  CompareStringsSpec .byte false true .cpsdrb ∧ CompareStringsSpec .word false true .cpsdr

/-- The eight block moves (45_block_string.md R235, R236, R245 to R248). -/
def Obligations.BlockMoveResults : Prop :=
  MoveSpec .byte true false .ldib ∧ MoveSpec .word true false .ldi ∧
  MoveSpec .byte true true .ldirb ∧ MoveSpec .word true true .ldir ∧
  MoveSpec .byte false false .lddb ∧ MoveSpec .word false false .ldd ∧
  MoveSpec .byte false true .lddrb ∧ MoveSpec .word false true .lddr

/-- The eight translate instructions (45_block_string.md R235, R236, R249 to R256). -/
def Obligations.TranslateResults : Prop :=
  TranslateSpec true false .trib ∧ TranslateSpec true true .trirb ∧
  TranslateSpec false false .trdb ∧ TranslateSpec false true .trdrb ∧
  TranslateTestSpec true false .trtib ∧ TranslateTestSpec true true .trtirb ∧
  TranslateTestSpec false false .trtdb ∧ TranslateTestSpec false true .trtdrb

/-- IN, SIN, OUT, SOUT and their byte forms in system mode (46_input_output.md R266, R267, R274). -/
def Obligations.PortResults : Prop :=
  (∀ (s : State) (d p : Reg),
    InputSpec .byte (.inbInd d p) s .standard (readWord p s) d ∧ InputSpec .word (.inInd d p) s .standard (readWord p s) d ∧
    OutputSpec .byte (.outbInd p d) s .standard (readWord p s) d ∧
    OutputSpec .word (.outInd p d) s .standard (readWord p s) d) ∧
  (∀ (s : State) (d : Reg) (port : Word),
    InputSpec .byte (.inb d port) s .standard port d ∧ InputSpec .word (.in_ d port) s .standard port d ∧
    InputSpec .byte (.sinb d port) s .special port d ∧ InputSpec .word (.sin d port) s .special port d ∧
    OutputSpec .byte (.outb port d) s .standard port d ∧ OutputSpec .word (.out port d) s .standard port d ∧
    OutputSpec .byte (.soutb port d) s .special port d ∧ OutputSpec .word (.sout port d) s .special port d)

/-- The sixteen block inputs in system mode (46_input_output.md R265, R266, R268 to R271). -/
def Obligations.BlockInputResults : Prop :=
  InputBlockSpec .word .standard true false .ini ∧ InputBlockSpec .byte .standard true false .inib ∧
  InputBlockSpec .word .special true false .sini ∧ InputBlockSpec .byte .special true false .sinib ∧
  InputBlockSpec .word .standard true true .inir ∧ InputBlockSpec .byte .standard true true .inirb ∧
  InputBlockSpec .word .special true true .sinir ∧ InputBlockSpec .byte .special true true .sinirb ∧
  InputBlockSpec .word .standard false false .ind ∧ InputBlockSpec .byte .standard false false .indb ∧
  InputBlockSpec .word .special false false .sind ∧ InputBlockSpec .byte .special false false .sindb ∧
  InputBlockSpec .word .standard false true .indr ∧ InputBlockSpec .byte .standard false true .indrb ∧
  InputBlockSpec .word .special false true .sindr ∧ InputBlockSpec .byte .special false true .sindrb

/-- The sixteen block outputs in system mode (46_input_output.md R265, R266, R272, R273, R275, R276). -/
def Obligations.BlockOutputResults : Prop :=
  OutputBlockSpec .word .standard true false .outi ∧ OutputBlockSpec .byte .standard true false .outib ∧
  OutputBlockSpec .word .special true false .souti ∧ OutputBlockSpec .byte .special true false .soutib ∧
  OutputBlockSpec .word .standard true true .otir ∧ OutputBlockSpec .byte .standard true true .otirb ∧
  OutputBlockSpec .word .special true true .sotir ∧ OutputBlockSpec .byte .special true true .sotirb ∧
  OutputBlockSpec .word .standard false false .outd ∧ OutputBlockSpec .byte .standard false false .outdb ∧
  OutputBlockSpec .word .special false false .soutd ∧ OutputBlockSpec .byte .special false false .soutdb ∧
  OutputBlockSpec .word .standard false true .otdr ∧ OutputBlockSpec .byte .standard false true .otdrb ∧
  OutputBlockSpec .word .special false true .sotdr ∧ OutputBlockSpec .byte .special false true .sotdrb

/-- SETFLG, RESFLG, COMFLG, LDCTLB, NOP: run in both modes, no control bit changes
(47_cpu_control.md R290, R291, R298, R306, R307, R309). -/
def Obligations.FlagInstructionResults : Prop :=
  FlagSetSpec (fun old named => old || named) .setflg ∧ FlagSetSpec (fun old named => old && !named) .resflg ∧
  FlagSetSpec (fun old named => old ^^ named) .comflg ∧
  (∀ s : State, JumpEffect .nop s (after .nop s)) ∧
  (∀ (s : State) (r : Reg),
    let b := readByte r s
    FlagEffect (.ldctlbWrite r) s fun _ =>
      { s.fcw with
        c := b.getLsbD 7, z := b.getLsbD 6, s := b.getLsbD 5, pv := b.getLsbD 4, d := b.getLsbD 3, h := b.getLsbD 2 }) ∧
  (∀ (s : State) (d : Reg),
    Effect (.ldctlbRead d) s (after (.ldctlbRead d) s) (fun _ => s.fcw) (homes .byte d) [] [] fun t =>
      let b := readByte d t
      b.getLsbD 7 = s.fcw.c ∧ b.getLsbD 6 = s.fcw.z ∧ b.getLsbD 5 = s.fcw.s ∧ b.getLsbD 4 = s.fcw.pv ∧
      b.getLsbD 3 = s.fcw.d ∧ b.getLsbD 2 = s.fcw.h ∧ ∀ k, k ≠ d → readByte k t = readByte k s)

/-- DI, EI, HALT, MSET, MRES in system mode: nothing else of the state changes
(47_cpu_control.md R292, R293, R294, R304, R305). -/
def Obligations.SystemControlResults : Prop :=
  ∀ s : State, s.fcw.sn = true →
    (∀ vi nvi : Bool, exec (.di vi nvi) s = .next { s with
      pc := after (.di vi nvi) s, fcw := { s.fcw with vie := s.fcw.vie && !vi, nvie := s.fcw.nvie && !nvi } }) ∧
    (∀ vi nvi : Bool, exec (.ei vi nvi) s = .next { s with
      pc := after (.ei vi nvi) s, fcw := { s.fcw with vie := s.fcw.vie || vi, nvie := s.fcw.nvie || nvi } }) ∧
    exec .halt s = .next { s with pc := after .halt s, halted := true } ∧
    exec .mset s = .next { s with pc := after .mset s, mo := true } ∧
    exec .mres s = .next { s with pc := after .mres s, mo := false }

/-- MBIT and MREQ in system mode complete. MBIT: S is /Mi, as the pin is read, the other five flags are free. MREQ: an
asserted first read makes no request; otherwise Rd is 0, and S and /Mo are the second read (47_cpu_control.md R301 to
R303). The reads of the pin are the free values of log 6, by the counter of draws. -/
def Obligations.MultiMicroResults : Prop :=
  ∀ s : State, s.fcw.sn = true →
    let first := Config.miPin s.draws
    let second := Config.miPin (s.draws + 1)
    FlagEffect .mbit s (fun u => { s.fcw with s := first, c := u.c, z := u.z, pv := u.pv, d := u.d, h := u.h }) ∧
    ∀ d : Reg, ∃ t, exec (.mreq d) s = .next t ∧ t.pc = after (.mreq d) s ∧
      if first then
        t.fcw = { s.fcw with z := false, s := false } ∧ OnlyChanges (guardOf (.mreq d) s) [] [] [] s t
      else
        t.fcw = { s.fcw with z := true, s := second } ∧ t.mo = second ∧ readWord d t = 0 ∧
          OnlyChanges (guardOf (.mreq d) s) [d] [] [] { s with mo := second } t

/-- LDCTL in system mode, for every control register; SEG = 0 is refused (47_cpu_control.md R297, 10_state.md R34). -/
def Obligations.ControlRegisterResults : Prop :=
  ∀ (s : State) (r : Reg), s.fcw.sn = true →
    (∀ c : Ctl, Effect (.ldctlRead r c) s (after (.ldctlRead r c) s) (fun _ => s.fcw) [r] [] [] fun t =>
      match c with
      | .fcw => Fcw.ofWord (readWord r t) = s.fcw
      | .refresh => (readWord r t).extractLsb' 9 7 = s.refresh.extractLsb' 9 7
      | .psapseg => (readWord r t).extractLsb' 8 7 = s.psap.seg
      | .psapoff => readWord r t = s.psap.off
      | .nspseg => readWord r t = s.r14n
      | .nspoff => readWord r t = s.r15n) ∧
    (let v := readWord r s;
      (v.getLsbD 15 = false → exec (.ldctlWrite .fcw r) s = .refused .segZero) ∧
      (v.getLsbD 15 = true →
        exec (.ldctlWrite .fcw r) s = .next { s with pc := after (.ldctlWrite .fcw r) s, fcw := Fcw.ofWord v }) ∧
      exec (.ldctlWrite .refresh r) s = .next { s with pc := after (.ldctlWrite .refresh r) s, refresh := v } ∧
      exec (.ldctlWrite .psapseg r) s = .next { s with
        pc := after (.ldctlWrite .psapseg r) s, psap := ⟨v.extractLsb' 8 7, s.psap.off⟩ } ∧
      exec (.ldctlWrite .psapoff r) s = .next { s with
        pc := after (.ldctlWrite .psapoff r) s, psap := ⟨s.psap.seg, v⟩ } ∧
      exec (.ldctlWrite .nspseg r) s = .next { s with pc := after (.ldctlWrite .nspseg r) s, r14n := v } ∧
      exec (.ldctlWrite .nspoff r) s = .next { s with pc := after (.ldctlWrite .nspoff r) s, r15n := v })

/-- IRET and LDPS in system mode: FCW and PC from memory; SEG = 0 is refused (47_cpu_control.md R296, R300). -/
def Obligations.StatusLoadResults : Prop :=
  ∀ s : State, s.fcw.sn = true →
    (let a := addrOf (s.r14s ++ s.r15s);
      (statusReady a s = true → exec .iret s = .next { s with
        r15s := s.r15s + 8
        fcw := Fcw.ofWord (peek .word (offsetBy a 2) s)
        pc := addrOf (peek .long (offsetBy a 4) s) }) ∧
      (canRead .word a s = true → canRead .word (offsetBy a 2) s = true → canRead .long (offsetBy a 4) s = true →
        (peek .word (offsetBy a 2) s).getLsbD 15 = false → exec .iret s = .refused .segZero)) ∧
    (∀ m : Mem,
      let a := memAddr m s;
      (statusReady a s = true → exec (.ldps m) s = .next { s with
        fcw := Fcw.ofWord (peek .word (offsetBy a 2) s), pc := addrOf (peek .long (offsetBy a 4) s) }) ∧
      (canRead .word a s = true → canRead .word (offsetBy a 2) s = true → canRead .long (offsetBy a 4) s = true →
        (peek .word (offsetBy a 2) s).getLsbD 15 = false → exec (.ldps m) s = .refused .segZero))

/-- The three internal traps: SC, the extended-instruction opcodes with EPA = 0, and every privileged instruction in
normal mode, which has no effect of its own (60_exceptions.md R334, R335, R336, R346, R347, 47_cpu_control.md R308).
That the frame counts as the instruction's own store for the look-ahead mark is the model's reading of 20_memory.md R75
(log 12, DEDUCED), beyond R335. -/
def Obligations.TrapResults : Prop :=
  (∀ (s : State) (n : Byte), entryReady .systemCall (firstWord (.sc n)) s = true →
    (s.fcw.sn = true → firstWord (.sc n) = 0x7F#8 ++ n ∧ TrapsTo (.sc n) s .systemCall (after (.sc n) s)) ∧
    (s.fcw.sn = false → entryReady .privilegedInstruction (firstWord (.sc n)) s = true →
      (Config.scPrivileged = false ∧ TrapsTo (.sc n) s .systemCall (after (.sc n) s)) ∨
      (Config.scPrivileged = true ∧ ∃ spc, TrapPcOf (.sc n) s spc ∧ TrapsTo (.sc n) s .privilegedInstruction spc))) ∧
  (∀ (lo : Byte) (w2 : Word), ExtendedSpec (.epu0E lo w2) ∧ ExtendedSpec (.epu0F lo w2) ∧ ExtendedSpec (.epu4E lo w2) ∧
    ExtendedSpec (.epu4F lo w2) ∧ ExtendedSpec (.epu8E lo w2) ∧ ExtendedSpec (.epu8F lo w2)) ∧
  (∀ (i : Instr) (s : State), isPrivileged i = true → s.fcw.sn = false →
    entryReady .privilegedInstruction (firstWord i) s = true →
    ∃ spc, TrapPcOf i s spc ∧ TrapsTo i s .privilegedInstruction spc)

/-- Trap and interrupt entry: the frame, the new program status, what stays the same, and when it is refused
(60_exceptions.md R330, R331, R332). That the frame of an event can set the look-ahead mark of 20_memory.md R75, over
the bytes the guard names, is the model's reading (log 12, DEDUCED). -/
def Obligations.TrapEntry : Prop :=
  ∀ (g : Guard) (e : Event) (id : Word) (spc : Addr) (s : State),
    (entryReady e id s = true → ∃ t, enter g e id spc s = .next t) ∧
    (∀ t, enter g e id spc s = .next t → Entered g e id spc s t) ∧
    (s.psap.off.extractLsb' 0 8 ≠ 0 → enter g e id spc s = .refused .psapUnaligned) ∧
    (s.psap.off.extractLsb' 0 8 = 0 → e = .vectored → id.getLsbD 0 = true →
      (frameBytes s).all (writable s) = true → aligned .word (frameAt s) = true →
      enter g e id spc s = .refused .oddVector)

/-- IRET in the handler that an entry leads to restores FCW, PC, the system stack pointer and every register
(60_exceptions.md R344, 47_cpu_control.md R296). -/
def Obligations.TrapReturnRestores : Prop :=
  ∀ (g : Guard) (e : Event) (id : Word) (spc : Addr) (s t : State), enter g e id spc s = .next t →
    t.fcw.sn = true → s.fcw.seg = true →
    ∃ u, exec .iret t = .next u ∧ u.fcw = s.fcw ∧ u.pc = spc ∧ u.gpr = s.gpr ∧ u.r14s = s.r14s ∧ u.r15s = s.r15s ∧
      u.r14n = s.r14n ∧ u.r15n = s.r15n ∧ u.mem = t.mem

/-- The order of events at a boundary, the masks, and waiting while halted; an event ends the halt and saves the PC of
the boundary (60_exceptions.md R320, R338 to R342, R346, 47_cpu_control.md R294). The model's choices in it: the frame
of these events never marks the word fetched ahead, the empty guard (log 12, DEDUCED); waiting changes the sampled pins
(log 21, DEDUCED); the identifier is the word `sample` leaves on the bus: the oracle's, a free value at each acknowledge
once the oracle is used up (R347; log 10). -/
def Obligations.BoundaryEvents : Prop :=
  ∀ s : State,
    let u := sample s
    let take := fun e : Event => enter ⟨⟨0, 0⟩, 0⟩ e u.ident u.pc { u with halted := false }
    u.resetReq = false → u.fcw.seg = true →
    (u.nmiPending = true → step s = take .nmi) ∧
    (u.nmiPending = false → u.segtReq = true → step s = take .segmentTrap) ∧
    (u.nmiPending = false → u.segtReq = false → u.viReq = true → u.fcw.vie = true → step s = take .vectored) ∧
    (u.nmiPending = false → u.segtReq = false → (u.viReq = false ∨ u.fcw.vie = false) → u.nviReq = true →
      u.fcw.nvie = true → step s = take .nonVectored) ∧
    (u.nmiPending = false → u.segtReq = false → (u.viReq = false ∨ u.fcw.vie = false) →
      (u.nviReq = false ∨ u.fcw.nvie = false) → u.halted = true → step s = .next u)

/-- The reset step: FCW and PC from segment 0, the latches cleared, memory unchanged; SEG = 0 is refused
(70_reset_and_hazards.md R370, 10_state.md R41). -/
def Obligations.ResetStep : Prop :=
  ∀ s : State,
    let u := sample s
    u.resetReq = true → canRead .word ⟨0, 2⟩ u = true → canRead .word ⟨0, 4⟩ u = true → canRead .word ⟨0, 6⟩ u = true →
    ((peek .word ⟨0, 2⟩ u).getLsbD 15 = true → ∃ t, step s = .next t ∧
      t.fcw = Fcw.ofWord (peek .word ⟨0, 2⟩ u) ∧
      t.pc = ⟨(peek .word ⟨0, 4⟩ u).extractLsb' 8 7, peek .word ⟨0, 6⟩ u⟩ ∧
      t.halted = false ∧ t.mo = false ∧ t.nmiPending = false ∧ t.mem = u.mem ∧ t.trace = u.trace) ∧
    ((peek .word ⟨0, 2⟩ u).getLsbD 15 = false → step s = .refused .segZero)

/-- In normal mode no instruction changes the mode, a control bit, the system stack pointer, PSAP, REFRESH, /Mo, the
halt latch or the I/O trace, except by entering one of the three internal traps
(60_exceptions.md R335, R360, 10_state.md R33). That the frame of such a trap counts as the instruction's own store
for the look-ahead mark of 20_memory.md R75 is the model's reading (log 12, DEDUCED). -/
def Obligations.NormalModeConfined : Prop :=
  ∀ (i : Instr) (s t : State), s.fcw.sn = false → exec i s = .next t →
    (t.fcw.seg = s.fcw.seg ∧ t.fcw.sn = false ∧ t.fcw.epa = s.fcw.epa ∧ t.fcw.vie = s.fcw.vie ∧ t.fcw.nvie = s.fcw.nvie ∧
      t.r14s = s.r14s ∧ t.r15s = s.r15s ∧ t.psap = s.psap ∧ t.refresh = s.refresh ∧ t.mo = s.mo ∧
      t.halted = s.halted ∧ t.trace = s.trace) ∨
    ∃ e spc, e ∈ [Event.extendedInstruction, Event.privilegedInstruction, Event.systemCall] ∧
      Entered (guardOf i s) e (firstWord i) spc s t
end

