-- ==== Sys2Proof/Laws/Bits.lean ====
section
/-! SUPPORT. Splitting a bit vector and joining it again. -/

namespace Sys2Proof

theorem append_extract {m n : Nat} (x : BitVec (m + n)) : x.extractLsb' n m ++ x.extractLsb' 0 n = x := by
  apply BitVec.eq_of_getLsbD_eq
  intro i hi
  rw [BitVec.getLsbD_append]
  by_cases h : i < n
  · simp [h]
  · have hm : i - n < m := by omega
    have e : n + (i - n) = i := by omega
    simp [h, hm, e]

theorem extract_append_lo {m n : Nat} (x : BitVec m) (y : BitVec n) : (x ++ y).extractLsb' 0 n = y := by
  apply BitVec.eq_of_getLsbD_eq
  intro i hi
  simp [BitVec.getLsbD_append, hi]

theorem extract_append_hi {m n : Nat} (x : BitVec m) (y : BitVec n) : (x ++ y).extractLsb' n m = x := by
  apply BitVec.eq_of_getLsbD_eq
  intro i hi
  simp [BitVec.getLsbD_append, hi]

@[simp] theorem byte_hi (x y : Byte) : BitVec.extractLsb' (n := 16) 8 8 (x ++ y) = x := extract_append_hi x y

@[simp] theorem byte_lo (x y : Byte) : BitVec.extractLsb' (n := 16) 0 8 (x ++ y) = y := extract_append_lo x y

@[simp] theorem word_hi (x y : Word) : BitVec.extractLsb' (n := 32) 16 16 (x ++ y) = x := extract_append_hi x y

@[simp] theorem word_lo (x y : Word) : BitVec.extractLsb' (n := 32) 0 16 (x ++ y) = y := extract_append_lo x y

@[simp] theorem long_hi (x y : Long) : BitVec.extractLsb' (n := 64) 32 32 (x ++ y) = x := extract_append_hi x y

@[simp] theorem long_lo (x y : Long) : BitVec.extractLsb' (n := 64) 0 32 (x ++ y) = y := extract_append_lo x y

@[simp] theorem word_join (x : Word) : (x.extractLsb' 8 8 ++ x.extractLsb' 0 8 : BitVec (8 + 8)) = x :=
  append_extract (m := 8) (n := 8) x

@[simp] theorem long_join (x : Long) : (x.extractLsb' 16 16 ++ x.extractLsb' 0 16 : BitVec (16 + 16)) = x :=
  append_extract (m := 16) (n := 16) x

@[simp] theorem quad_join (x : Quad) : (x.extractLsb' 32 32 ++ x.extractLsb' 0 32 : BitVec (32 + 32)) = x :=
  append_extract (m := 32) (n := 32) x

end Sys2Proof
end

