-- ==== Sys2Proof/Laws/Encoding.lean ====
section
/-! SUPPORT. How many words each part of an encoding has (30_encoding.md R93). -/

namespace Sys2Proof

@[simp] theorem AddrForm.encode_length (a : AddrForm) : a.encode.length = a.words := by cases a <;> rfl

@[simp] theorem Direct.encode_length (d : Direct) : d.encode.length = d.words := by
  cases d <;> simp [Direct.encode, Direct.words]

@[simp] theorem Mem.encode_length (m : Mem) : m.encode.length = m.words := by
  cases m <;> simp [Mem.encode, Mem.words]

@[simp] theorem Opd.encode_length (o : Opd) : o.encode.length = o.words := by
  cases o <;> simp [Opd.encode, Opd.words]

@[simp] theorem Src.encode_length (w : Width) (src : Src w.bits) : (src.encode w).length = src.words := by
  cases src with
  | imm v => cases w <;> rfl
  | reg r => rfl
  | mem m => exact m.encode_length

@[simp] theorem encodeTwo_length (w : Width) (op : BitVec 6) (d : Reg) (src : Src w.bits) :
    (encodeTwo w op d src).length = 1 + src.words := by
  simp [encodeTwo, Nat.add_comm]

@[simp] theorem encodeOpd_length (op : BitVec 6) (o : Opd) (k : BitVec 4) : (encodeOpd op o k).length = 1 + o.words := by
  simp [encodeOpd, Nat.add_comm]

@[simp] theorem encodeMem_length (op : BitVec 6) (m : Mem) (k : BitVec 4) : (encodeMem op m k).length = 1 + m.words := by
  simp [encodeMem, Nat.add_comm]

@[simp] theorem encodeStack_length (op : BitVec 6) (p : Reg) (o : Opd) : (encodeStack op p o).length = 1 + o.words := by
  simp [encodeStack, Nat.add_comm]

@[simp] theorem encodeMultiple_length (k : BitVec 4) (m : Mem) (r n1 : BitVec 4) :
    (encodeMultiple k m r n1).length = 2 + m.words := by
  simp [encodeMultiple]; omega

@[simp] theorem encodeDyn_length (op : BitVec 6) (d s : Reg) : (encodeDyn op d s).length = 2 := rfl

@[simp] theorem encodeBlock_length (mode : BitVec 2) (op : BitVec 6) (f k a b c : BitVec 4) :
    (encodeBlock mode op f k a b c).length = 2 := rfl

theorem AddrForm.words_bounds (a : AddrForm) : 1 ≤ a.words ∧ a.words ≤ 2 := by cases a <;> simp [AddrForm.words]

theorem Direct.words_bounds (d : Direct) : 1 ≤ d.words ∧ d.words ≤ 2 := by
  cases d <;> exact AddrForm.words_bounds _

theorem Mem.words_le (m : Mem) : m.words ≤ 2 := by
  cases m with
  | ir p => simp [Mem.words]
  | dir d => exact d.words_bounds.2

theorem Opd.words_le (o : Opd) : o.words ≤ 2 := by
  cases o with
  | reg r => simp [Opd.words]
  | mem m => exact m.words_le

theorem Src.words_le {n : Nat} (src : Src n) : src.words ≤ 2 := by
  cases src with
  | imm v => simp only [Src.words]; split <;> omega
  | reg r => simp [Src.words]
  | mem m => exact m.words_le

/-- An encoding begins with the instruction's first word. -/
theorem encode_firstWord (i : Instr) : ∃ ws, encode i = firstWord i :: ws := by
  cases i <;> exact ⟨_, rfl⟩

/-- An instruction has at least one word (30_encoding.md R93). -/
theorem encode_ne_nil (i : Instr) : encode i ≠ [] := by
  obtain ⟨ws, h⟩ := encode_firstWord i
  simp [h]

end Sys2Proof
end

