-- ==== Sys2Proof/Laws/Decoding.lean ====
section
/-! SUPPORT. What each part of the decoder reads back from what the encoder wrote. -/

namespace Sys2Proof

/- Fields of a first and of a second word (30_encoding.md R91, R92). -/

/-- The fields of a word of four parts. -/
theorem firstOf_fields (m : BitVec 2) (op : BitVec 6) (f1 f2 : BitVec 4) :
    (firstOf m op f1 f2).extractLsb' 14 2 = m ∧ (firstOf m op f1 f2).extractLsb' 8 6 = op ∧
      (firstOf m op f1 f2).extractLsb' 4 4 = f1 ∧ (firstOf m op f1 f2).extractLsb' 0 4 = f2 := by
  refine ⟨?_, ?_, ?_, ?_⟩ <;>
    · apply BitVec.eq_of_getLsbD_eq
      intro i hi
      simp only [firstOf, BitVec.getLsbD_extractLsb', BitVec.getLsbD_append]
      have : i = 0 ∨ i = 1 ∨ i = 2 ∨ i = 3 ∨ i = 4 ∨ i = 5 := by omega
      obtain rfl | rfl | rfl | rfl | rfl | rfl := this <;> first | rfl | omega

theorem secondOf_fields (a b c : BitVec 4) :
    (secondOf a b c).extractLsb' 12 4 = 0#4 ∧ (secondOf a b c).extractLsb' 8 4 = a ∧
      (secondOf a b c).extractLsb' 4 4 = b ∧ (secondOf a b c).extractLsb' 0 4 = c := by
  refine ⟨?_, ?_, ?_, ?_⟩ <;>
    · apply BitVec.eq_of_getLsbD_eq
      intro i hi
      simp only [secondOf, BitVec.getLsbD_extractLsb', BitVec.getLsbD_append]
      have : i = 0 ∨ i = 1 ∨ i = 2 ∨ i = 3 := by omega
      obtain rfl | rfl | rfl | rfl := this <;> rfl

/-- A first word of mode 00, 01 or 10 is parsed by its operation (30_encoding.md R133). -/
theorem parse_firstOf (m : BitVec 2) (op : BitVec 6) (f1 f2 : BitVec 4) (ws : List Word) (hm : m ≠ 3#2) :
    parse (firstOf m op f1 f2 :: ws) = parseOp m.toNat op.toNat f1 f2 ws := by
  obtain ⟨h1, h2, h3, h4⟩ := firstOf_fields m op f1 f2
  simp only [parse, h1, h2, h3, h4]
  split
  · next h => exact absurd (BitVec.eq_of_toNat_eq h) hm
  · rfl

@[simp] theorem CC.ofBits_bits (cc : CC) : CC.ofBits cc.bits = cc := by cases cc <;> rfl

@[simp] theorem Ctl.ofBits_bits (c : Ctl) : Ctl.ofBits c.bits = some c := by cases c <;> rfl

/- Parts that follow the first word (30_encoding.md R94, R95, R100). -/

/-- The fields of the first word of an address (30_encoding.md R94). -/
theorem addrWord_fields (b : BitVec 1) (g : BitVec 7) (o : Byte) (w : Word) (hw : w = b ++ g ++ o) :
    w.getLsbD 15 = b.getLsbD 0 ∧ w.extractLsb' 8 7 = g ∧ w.extractLsb' 0 8 = o := by
  subst hw
  refine ⟨?_, ?_, ?_⟩
  · simp only [BitVec.getLsbD_append]; rfl
  all_goals
    apply BitVec.eq_of_getLsbD_eq
    intro i hi
    simp only [BitVec.getLsbD_extractLsb', BitVec.getLsbD_append]
    have : i = 0 ∨ i = 1 ∨ i = 2 ∨ i = 3 ∨ i = 4 ∨ i = 5 ∨ i = 6 ∨ i = 7 := by omega
    obtain rfl | rfl | rfl | rfl | rfl | rfl | rfl | rfl := this <;> first | rfl | omega

/-- An address is read back in its own form (30_encoding.md R94). -/
theorem takeAddr_encode (a : AddrForm) (ws : List Word) : takeAddr (a.encode ++ ws) = .ok (a, ws) := by
  cases a with
  | short g o =>
    obtain ⟨h, h1, h2⟩ := addrWord_fields 0#1 g o _ rfl
    have e : (AddrForm.short g o).encode ++ ws = (0#1 ++ g ++ o : Word) :: ws := rfl
    rw [e, takeAddr.eq_def]
    simp only [h, h1, h2]
    rfl
  | long g o =>
    obtain ⟨h, h1, h2⟩ := addrWord_fields 1#1 g 0#8 _ rfl
    have e : (AddrForm.long g o).encode ++ ws = (1#1 ++ g ++ 0#8 : Word) :: o :: ws := rfl
    rw [e, takeAddr.eq_def]
    simp only [h, h1, h2]
    rfl

theorem takeDirect_encode (d : Direct) (ws : List Word) (h : d.wf = true) :
    takeDirect d.field (d.encode ++ ws) = .ok (d, ws) := by
  cases d with
  | da a => simp [takeDirect, Direct.field, Direct.encode, takeAddr_encode, Dec.map, Dec.andThen]
  | idx x a =>
    have hx : x ≠ 0#4 := by simpa [Direct.wf, indexReg] using h
    simp [takeDirect, Direct.field, Direct.encode, takeAddr_encode, Dec.map, Dec.andThen, hx]

theorem takeMem_encode (m : Mem) (ws : List Word) (h : m.wf = true) :
    takeMem m.mode.toNat m.field (m.encode ++ ws) = .ok (m, ws) := by
  cases m with
  | ir p => rfl
  | dir d =>
    have e : takeMem (Mem.dir d).mode.toNat (Mem.dir d).field ((Mem.dir d).encode ++ ws) =
      (takeDirect d.field (d.encode ++ ws)).map .dir := rfl
    rw [e, takeDirect_encode d ws h]
    rfl

theorem takeOpd_encode (o : Opd) (ws : List Word) (reg : Reg → Bool) (h : o.wf reg = true) :
    takeOpd o.mode.toNat o.field (o.encode ++ ws) = .ok (o, ws) := by
  cases o with
  | reg r => rfl
  | mem m =>
    have e : takeOpd (Opd.mem m).mode.toNat (Opd.mem m).field ((Opd.mem m).encode ++ ws) =
      (takeMem m.mode.toNat m.field (m.encode ++ ws)).map .mem := by cases m <;> rfl
    rw [e, takeMem_encode m ws h]
    rfl

theorem takeImm_encode (w : Width) (v : BitVec w.bits) (ws : List Word) : takeImm w (immWords w v ++ ws) = .ok (v, ws) := by
  cases w with
  | byte =>
    have h1 : (imm8Word v).extractLsb' 8 8 = v := byte_hi v v
    have h2 : (imm8Word v).extractLsb' 0 8 = v := byte_lo v v
    simp [takeImm, immWords, takeImm8, h1, h2]
  | word => rfl
  | long => exact congrArg (fun x => Except.ok (x, ws)) (long_join v)

/-- A source operand is read back (30_encoding.md R100, R110). -/
theorem takeSrc_encode (w : Width) (src : Src w.bits) (ws : List Word) (reg : Reg → Bool) (h : src.wf reg = true) :
    takeSrc w src.mode.toNat src.field (src.encode w ++ ws) = .ok (src, ws) := by
  cases src with
  | imm v =>
    have e : takeSrc w (Src.imm v).mode.toNat (Src.imm v).field ((Src.imm v).encode w ++ ws) =
      (takeImm w (immWords w v ++ ws)).map .imm := rfl
    rw [e, takeImm_encode]
    rfl
  | reg r => rfl
  | mem m =>
    cases m with
    | ir p =>
      have hp : p ≠ 0#4 := by
        intro hp; subst hp; revert h; cases w <;> simp [Src.wf, Mem.wf, pointerReg]
      simp [takeSrc, Src.mode, Src.field, Src.encode, Mem.mode, Mem.field, Mem.encode, hp]
    | dir d =>
      have e : takeSrc w (Src.mem (n := w.bits) (.dir d)).mode.toNat (Src.mem (n := w.bits) (.dir d)).field
          ((Src.mem (n := w.bits) (.dir d)).encode w ++ ws) =
        (takeMem (Mem.dir d).mode.toNat (Mem.dir d).field ((Mem.dir d).encode ++ ws)).map .mem := rfl
      rw [e, takeMem_encode (.dir d) ws h]
      rfl

/-- A second operation word is read field by field (30_encoding.md R92). -/
theorem takeNibbles_encode (a b c : BitVec 4) (ws : List Word) (f : Reg → BitVec 4 → BitVec 4 → Option Instr) :
    takeNibbles (secondOf a b c :: ws) f =
      match f a b c with
      | some i => .ok (i, ws)
      | none => Dec.reserved .secondWord := by
  obtain ⟨h1, h2, h3, h4⟩ := secondOf_fields a b c
  simp only [takeNibbles, takeWord, Dec.andThen, h1, h2, h3, h4]
  rfl

/-- The modes of an operand are never 11. -/
theorem Opd.mode_ne (o : Opd) : o.mode ≠ 3#2 := by rcases o with _ | _ | _ <;> simp [Opd.mode, Mem.mode]

theorem Mem.mode_ne (m : Mem) : m.mode ≠ 3#2 := by cases m <;> simp [Mem.mode]

theorem Src.mode_ne {n : Nat} (src : Src n) : src.mode ≠ 3#2 := by
  rcases src with _ | _ | _ | _ <;> simp [Src.mode, Mem.mode]

/- When the words at hand are an instruction, begin one, or do neither (30_encoding.md R130, R133). -/

theorem decodeWords_ok (ws rest : List Word) (i : Instr) :
    decodeWords ws = .ok (i, rest) ↔ parse ws = .ok (i, rest) ∧ i.wf = true := by
  simp only [decodeWords]
  split
  · next j r hp =>
    simp only [hp, Except.ok.injEq, Prod.mk.injEq]
    cases hw : j.wf with
    | true => simpa using fun hj _ => hj ▸ hw
    | false => simpa [Dec.reserved] using fun hj _ => hj ▸ hw
  · split <;> simp [Dec.reserved, *]
  · simp [*]

/-- The decoder waits for a word only where words after those at hand make them an instruction. -/
theorem decodeWords_truncated (ws : List Word) (h : decodeWords ws = .error .truncated) :
    ∃ more i rest, decodeWords (ws ++ more) = .ok (i, rest) := by
  simp only [decodeWords] at h
  split at h
  · split at h <;> simp [Dec.reserved] at h
  · split at h
    · next hb =>
      simp only [begins, List.any_eq_true] at hb
      obtain ⟨w, -, hw⟩ := hb
      split at hw
      · next i rest hp => exact ⟨[w, 0, 0], i, rest, (decodeWords_ok _ _ _).2 ⟨hp, hw⟩⟩
      · simp at hw
    · simp [Dec.reserved] at h
  · next e he _ => exact (he (Except.error.inj h)).elim

end Sys2Proof
end

