-- ==== Sys2Proof/Laws/Flags.lean ====
section
/-! SUPPORT. The flag functions in terms of exact arithmetic, the fields that each flag update leaves, and the
words of FCW (10_state.md R29, R32). -/

namespace Sys2Proof.Machine

/- Signed values. -/

/-- The number of values is twice the number of non-negative ones. -/
theorem two_pow_half {n : Nat} (hn : 0 < n) : 2 ^ n = 2 * 2 ^ (n - 1) := by
  conv_lhs => rw [show n = n - 1 + 1 by omega, Nat.pow_succ, Nat.mul_comm]

/-- The two readings of a bit vector with `2 * p` values. -/
theorem signed_cases {n p : Nat} (hn : 0 < n) (hp : 2 ^ n = 2 * p) (x : BitVec n) :
    (x.msb = false ∧ x.toInt = x.toNat ∧ x.toNat < p) ∨
    (x.msb = true ∧ x.toInt = (x.toNat : Int) - 2 * p ∧ p ≤ x.toNat ∧ x.toNat < 2 * p) := by
  have hq : 2 ^ (n - 1) = p := by have := two_pow_half hn; omega
  have hl : x.toNat < 2 * p := hp ▸ x.isLt
  have hm := BitVec.msb_eq_decide x
  rw [hq] at hm
  rw [BitVec.toInt_eq_msb_cond, hp]
  by_cases h : p ≤ x.toNat
  · right
    rw [hm, decide_eq_true h]
    exact ⟨rfl, by simp, h, hl⟩
  · left
    rw [hm, decide_eq_false h]
    exact ⟨rfl, by simp, by omega⟩

/-- The top bit is the sign. -/
theorem decide_toInt_neg {n : Nat} (x : BitVec n) : decide (x.toInt < 0) = x.msb := by
  rw [BitVec.msb_eq_toInt]

/- Addition and subtraction. -/

/-- The result of an addition (10_state.md R32). -/
theorem addW_r {n : Nat} (a b : BitVec n) (cin : Bool) : (addW a b cin).r = a + b + BitVec.ofNat n cin.toNat := by
  apply BitVec.eq_of_toNat_eq
  simp [addW, BitVec.toNat_add]

/-- The result of a subtraction (10_state.md R32). -/
theorem subW_r {n : Nat} (a b : BitVec n) (bin : Bool) : (subW a b bin).r = a - b - BitVec.ofNat n bin.toNat := by
  have h : ∀ k : Nat, BitVec.ofInt n k = BitVec.ofNat n k := fun k => BitVec.ofInt_natCast n k
  simp only [subW]
  rw [Int.sub_eq_add_neg, BitVec.ofInt_add, BitVec.ofInt_neg, Int.sub_eq_add_neg, BitVec.ofInt_add, BitVec.ofInt_neg,
    h, h, h]
  simp [BitVec.sub_eq_add_neg]

/-- C of a subtraction: the unsigned borrow (10_state.md R32). -/
theorem subW_c {n : Nat} (a b : BitVec n) (bin : Bool) :
    (subW a b bin).c = decide (a.toNat < b.toNat + bin.toNat) := by
  simp only [subW, decide_eq_decide]; omega

/-- H of a subtraction: the borrow of the low digit (10_state.md R32). -/
theorem subW_h {n : Nat} (a b : BitVec n) (bin : Bool) :
    (subW a b bin).h = decide (a.toNat % 16 < b.toNat % 16 + bin.toNat) := by
  simp only [subW, decide_eq_decide]; omega

/-- H of an addition: the carry of the low digit (10_state.md R32). -/
theorem addW_h {n : Nat} (a b : BitVec n) (cin : Bool) :
    (addW a b cin).h = decide (16 ≤ a.toNat % 16 + b.toNat % 16 + cin.toNat) := by
  simp only [addW, decide_eq_decide]; omega

/-- V of an addition: the signed result does not fit (10_state.md R32). -/
theorem addW_v {n : Nat} (hn : 0 < n) (a b : BitVec n) (cin : Bool) :
    (addW a b cin).v = decide ((addW a b cin).r.toInt ≠ a.toInt + b.toInt + cin.toNat) := by
  have hp := two_pow_half hn
  generalize 2 ^ (n - 1) = p at hp
  have hr : (addW a b cin).r.toNat = (a.toNat + b.toNat + cin.toNat) % (2 * p) := by simp [addW, hp]
  have hc : cin.toNat ≤ 1 := Bool.toNat_le cin
  have hv : (addW a b cin).v = (a.msb == b.msb && (addW a b cin).r.msb != a.msb) := rfl
  rw [hv]
  generalize (addW a b cin).r = r at *
  have hcases : a.toNat + b.toNat + cin.toNat < 2 * p ∧ r.toNat = a.toNat + b.toNat + cin.toNat ∨
      2 * p ≤ a.toNat + b.toNat + cin.toNat ∧ r.toNat = a.toNat + b.toNat + cin.toNat - 2 * p := by
    have := a.isLt; have := b.isLt
    rw [hr]
    by_cases h : a.toNat + b.toNat + cin.toNat < 2 * p
    · exact .inl ⟨h, Nat.mod_eq_of_lt h⟩
    · refine .inr ⟨by omega, ?_⟩
      rw [Nat.mod_eq_sub_mod (by omega), Nat.mod_eq_of_lt (by omega)]
  clear hr
  rcases signed_cases hn hp a with ⟨ma, ia, la⟩ | ⟨ma, ia, la, _⟩ <;>
    rcases signed_cases hn hp b with ⟨mb, ib, lb⟩ | ⟨mb, ib, lb, _⟩ <;>
    rcases signed_cases hn hp r with ⟨mr, ir, lr⟩ | ⟨mr, ir, lr, _⟩ <;>
    rw [ma, mb, mr, ia, ib, ir] <;> simp <;> omega

/-- V of a subtraction: the signed result does not fit (10_state.md R32). -/
theorem subW_v {n : Nat} (hn : 0 < n) (a b : BitVec n) (bin : Bool) :
    (subW a b bin).v = decide ((subW a b bin).r.toInt ≠ a.toInt - b.toInt - bin.toNat) := by
  have hp := two_pow_half hn
  generalize 2 ^ (n - 1) = p at hp
  have hr : ((subW a b bin).r.toNat : Int) = ((a.toNat : Int) - b.toNat - bin.toNat) % (2 * p) := by
    simp [subW, BitVec.toNat_ofInt, hp]
    have : (0 : Int) ≤ ((a.toNat : Int) - b.toNat - bin.toNat) % (2 * p) := by
      apply Int.emod_nonneg
      have := a.isLt
      omega
    omega
  have hc : bin.toNat ≤ 1 := Bool.toNat_le bin
  have hv : (subW a b bin).v = (a.msb != b.msb && (subW a b bin).r.msb != a.msb) := rfl
  rw [hv]
  generalize (subW a b bin).r = r at *
  have hcases : (0 : Int) ≤ (a.toNat : Int) - b.toNat - bin.toNat ∧ (r.toNat : Int) = a.toNat - b.toNat - bin.toNat ∨
      (a.toNat : Int) - b.toNat - bin.toNat < 0 ∧ (r.toNat : Int) = a.toNat - b.toNat - bin.toNat + 2 * p := by
    have := a.isLt; have := b.isLt
    rw [hr]
    by_cases h : (0 : Int) ≤ (a.toNat : Int) - b.toNat - bin.toNat
    · exact .inl ⟨h, Int.emod_eq_of_lt h (by omega)⟩
    · refine .inr ⟨by omega, ?_⟩
      rw [← Int.add_emod_right, Int.emod_eq_of_lt (by omega) (by omega)]
  clear hr
  rcases signed_cases hn hp a with ⟨ma, ia, la⟩ | ⟨ma, ia, la, _⟩ <;>
    rcases signed_cases hn hp b with ⟨mb, ib, lb⟩ | ⟨mb, ib, lb, _⟩ <;>
    rcases signed_cases hn hp r with ⟨mr, ir, lr⟩ | ⟨mr, ir, lr, _⟩ <;>
    rw [ma, mb, mr, ia, ib, ir] <;> simp <;> omega

/- Flag updates. -/

@[simp] theorem setCZSV_sn (f : Fcw) (c z s v : Bool) : (f.setCZSV c z s v).sn = f.sn := rfl
@[simp] theorem setCZSV_seg (f : Fcw) (c z s v : Bool) : (f.setCZSV c z s v).seg = f.seg := rfl
@[simp] theorem setZS_sn {n : Nat} (f : Fcw) (r : BitVec n) : (f.setZS r).sn = f.sn := rfl
@[simp] theorem setZS_seg {n : Nat} (f : Fcw) (r : BitVec n) : (f.setZS r).seg = f.seg := rfl
@[simp] theorem setPV_sn (f : Fcw) (v : Bool) : (f.setPV v).sn = f.sn := rfl
@[simp] theorem setPV_seg (f : Fcw) (v : Bool) : (f.setPV v).seg = f.seg := rfl
@[simp] theorem setZ_sn (f : Fcw) (z : Bool) : (f.setZ z).sn = f.sn := rfl
@[simp] theorem setZ_seg (f : Fcw) (z : Bool) : (f.setZ z).seg = f.seg := rfl
@[simp] theorem setDH_sn (f : Fcw) (w : Width) (d h : Bool) : (f.setDH w d h).sn = f.sn := by cases w <;> rfl
@[simp] theorem setDH_seg (f : Fcw) (w : Width) (d h : Bool) : (f.setDH w d h).seg = f.seg := by cases w <;> rfl
@[simp] theorem setArith_sn {n : Nat} (f : Fcw) (w : Width) (d : Bool) (x : Sum n) : (f.setArith w d x).sn = f.sn := by
  simp [Fcw.setArith]
@[simp] theorem setArith_seg {n : Nat} (f : Fcw) (w : Width) (d : Bool) (x : Sum n) : (f.setArith w d x).seg = f.seg := by
  simp [Fcw.setArith]
@[simp] theorem setLogic_sn {n : Nat} (f : Fcw) (w : Width) (r : BitVec n) : (f.setLogic w r).sn = f.sn := by
  cases w <;> rfl
@[simp] theorem setLogic_seg {n : Nat} (f : Fcw) (w : Width) (r : BitVec n) : (f.setLogic w r).seg = f.seg := by
  cases w <;> rfl
@[simp] theorem withFlags_sn (f : Fcw) (b : Byte) : (f.withFlags b).sn = f.sn := rfl
@[simp] theorem withFlags_seg (f : Fcw) (b : Byte) : (f.withFlags b).seg = f.seg := rfl

/- Words of FCW (10_state.md R29). -/

@[simp] theorem ofWord_seg (v : Word) : (Fcw.ofWord v).seg = v.getLsbD 15 := rfl
@[simp] theorem ofWord_sn (v : Word) : (Fcw.ofWord v).sn = v.getLsbD 14 := rfl

/-- The bits of FLAGS (10_state.md R29). -/
theorem flags_bits (f : Fcw) (low : BitVec 2) :
    (f.flags low).getLsbD 7 = f.c ∧ (f.flags low).getLsbD 6 = f.z ∧ (f.flags low).getLsbD 5 = f.s ∧
    (f.flags low).getLsbD 4 = f.pv ∧ (f.flags low).getLsbD 3 = f.d ∧ (f.flags low).getLsbD 2 = f.h := by
  obtain ⟨seg, sn, epa, vie, nvie, c, z, s, pv, d, h⟩ := f
  revert c z s pv d h low; simp only [Fcw.flags]; decide

/-- The bits of the high byte of FCW (10_state.md R29). -/
theorem control_bits : ∀ (seg sn epa vie nvie : Bool) (free : BitVec 3),
    let b : Byte := BitVec.ofBool seg ++ BitVec.ofBool sn ++ BitVec.ofBool epa ++ BitVec.ofBool vie ++
      BitVec.ofBool nvie ++ free
    b.getLsbD 7 = seg ∧ b.getLsbD 6 = sn ∧ b.getLsbD 5 = epa ∧ b.getLsbD 4 = vie ∧ b.getLsbD 3 = nvie := by
  decide

/-- A bit of a word made of two bytes. -/
theorem getLsbD_bytes (x y : Byte) (k : Nat) :
    (x ++ y : Word).getLsbD k = if k < 8 then y.getLsbD k else x.getLsbD (k - 8) := BitVec.getLsbD_append

/-- The FCW of a word made of two bytes. -/
theorem ofWord_bytes (x y : Byte) : Fcw.ofWord (x ++ y) =
    ⟨x.getLsbD 7, x.getLsbD 6, x.getLsbD 5, x.getLsbD 4, x.getLsbD 3,
      y.getLsbD 7, y.getLsbD 6, y.getLsbD 5, y.getLsbD 4, y.getLsbD 3, y.getLsbD 2⟩ := by
  have lo : (x ++ y : Word).extractLsb' 0 8 = y := byte_lo x y
  simp only [Fcw.ofWord, Fcw.withFlags, getLsbD_bytes, lo]
  simp

/-- What is written to FCW and read back, whatever the reserved bits (10_state.md R29, R34). -/
@[simp] theorem ofWord_toWord (f : Fcw) (free : BitVec 5) : Fcw.ofWord (f.toWord free) = f := by
  obtain ⟨h7, h6, h5, h4, h3⟩ := control_bits f.seg f.sn f.epa f.vie f.nvie (free.extractLsb' 2 3)
  obtain ⟨c, z, s, pv, d, h⟩ := flags_bits f (free.extractLsb' 0 2)
  refine (ofWord_bytes _ _).trans ?_
  rw [h7, h6, h5, h4, h3, c, z, s, pv, d, h]

end Sys2Proof.Machine
end

