-- ==== Sys2Proof/Laws/State.lean ====
section
/-! SUPPORT. What each update of the state leaves in each field: one lemma per field per update. -/

namespace Sys2Proof.Machine

@[simp] theorem setFcw_gpr (f : Fcw) (s : State) : (setFcw f s).gpr = s.gpr := rfl
@[simp] theorem setFcw_r14s (f : Fcw) (s : State) : (setFcw f s).r14s = s.r14s := rfl
@[simp] theorem setFcw_r15s (f : Fcw) (s : State) : (setFcw f s).r15s = s.r15s := rfl
@[simp] theorem setFcw_r14n (f : Fcw) (s : State) : (setFcw f s).r14n = s.r14n := rfl
@[simp] theorem setFcw_r15n (f : Fcw) (s : State) : (setFcw f s).r15n = s.r15n := rfl
@[simp] theorem setFcw_pc (f : Fcw) (s : State) : (setFcw f s).pc = s.pc := rfl
@[simp] theorem setFcw_fcw (f : Fcw) (s : State) : (setFcw f s).fcw = f := rfl
@[simp] theorem setFcw_psap (f : Fcw) (s : State) : (setFcw f s).psap = s.psap := rfl
@[simp] theorem setFcw_refresh (f : Fcw) (s : State) : (setFcw f s).refresh = s.refresh := rfl
@[simp] theorem setFcw_mem (f : Fcw) (s : State) : (setFcw f s).mem = s.mem := rfl
@[simp] theorem setFcw_halted (f : Fcw) (s : State) : (setFcw f s).halted = s.halted := rfl
@[simp] theorem setFcw_mo (f : Fcw) (s : State) : (setFcw f s).mo = s.mo := rfl
@[simp] theorem setFcw_nmiPending (f : Fcw) (s : State) : (setFcw f s).nmiPending = s.nmiPending := rfl
@[simp] theorem setFcw_viReq (f : Fcw) (s : State) : (setFcw f s).viReq = s.viReq := rfl
@[simp] theorem setFcw_nviReq (f : Fcw) (s : State) : (setFcw f s).nviReq = s.nviReq := rfl
@[simp] theorem setFcw_segtReq (f : Fcw) (s : State) : (setFcw f s).segtReq = s.segtReq := rfl
@[simp] theorem setFcw_resetReq (f : Fcw) (s : State) : (setFcw f s).resetReq = s.resetReq := rfl
@[simp] theorem setFcw_stale (f : Fcw) (s : State) : (setFcw f s).stale = s.stale := rfl
@[simp] theorem setFcw_ident (f : Fcw) (s : State) : (setFcw f s).ident = s.ident := rfl
@[simp] theorem setFcw_inputs (f : Fcw) (s : State) : (setFcw f s).inputs = s.inputs := rfl
@[simp] theorem setFcw_trace (f : Fcw) (s : State) : (setFcw f s).trace = s.trace := rfl
@[simp] theorem setFcw_map (f : Fcw) (s : State) : (setFcw f s).map = s.map := rfl
@[simp] theorem setFcw_draws (f : Fcw) (s : State) : (setFcw f s).draws = s.draws := rfl

@[simp] theorem spend_gpr (n : Nat) (s : State) : (spend n s).gpr = s.gpr := rfl
@[simp] theorem spend_r14s (n : Nat) (s : State) : (spend n s).r14s = s.r14s := rfl
@[simp] theorem spend_r15s (n : Nat) (s : State) : (spend n s).r15s = s.r15s := rfl
@[simp] theorem spend_r14n (n : Nat) (s : State) : (spend n s).r14n = s.r14n := rfl
@[simp] theorem spend_r15n (n : Nat) (s : State) : (spend n s).r15n = s.r15n := rfl
@[simp] theorem spend_pc (n : Nat) (s : State) : (spend n s).pc = s.pc := rfl
@[simp] theorem spend_fcw (n : Nat) (s : State) : (spend n s).fcw = s.fcw := rfl
@[simp] theorem spend_psap (n : Nat) (s : State) : (spend n s).psap = s.psap := rfl
@[simp] theorem spend_refresh (n : Nat) (s : State) : (spend n s).refresh = s.refresh := rfl
@[simp] theorem spend_mem (n : Nat) (s : State) : (spend n s).mem = s.mem := rfl
@[simp] theorem spend_halted (n : Nat) (s : State) : (spend n s).halted = s.halted := rfl
@[simp] theorem spend_mo (n : Nat) (s : State) : (spend n s).mo = s.mo := rfl
@[simp] theorem spend_nmiPending (n : Nat) (s : State) : (spend n s).nmiPending = s.nmiPending := rfl
@[simp] theorem spend_viReq (n : Nat) (s : State) : (spend n s).viReq = s.viReq := rfl
@[simp] theorem spend_nviReq (n : Nat) (s : State) : (spend n s).nviReq = s.nviReq := rfl
@[simp] theorem spend_segtReq (n : Nat) (s : State) : (spend n s).segtReq = s.segtReq := rfl
@[simp] theorem spend_resetReq (n : Nat) (s : State) : (spend n s).resetReq = s.resetReq := rfl
@[simp] theorem spend_stale (n : Nat) (s : State) : (spend n s).stale = s.stale := rfl
@[simp] theorem spend_ident (n : Nat) (s : State) : (spend n s).ident = s.ident := rfl
@[simp] theorem spend_inputs (n : Nat) (s : State) : (spend n s).inputs = s.inputs := rfl
@[simp] theorem spend_trace (n : Nat) (s : State) : (spend n s).trace = s.trace := rfl
@[simp] theorem spend_map (n : Nat) (s : State) : (spend n s).map = s.map := rfl
@[simp] theorem spend_draws (n : Nat) (s : State) : (spend n s).draws = s.draws + n := rfl

@[simp] theorem jumpTo_gpr (a : Addr) (s : State) : (jumpTo a s).gpr = s.gpr := rfl
@[simp] theorem jumpTo_r14s (a : Addr) (s : State) : (jumpTo a s).r14s = s.r14s := rfl
@[simp] theorem jumpTo_r15s (a : Addr) (s : State) : (jumpTo a s).r15s = s.r15s := rfl
@[simp] theorem jumpTo_r14n (a : Addr) (s : State) : (jumpTo a s).r14n = s.r14n := rfl
@[simp] theorem jumpTo_r15n (a : Addr) (s : State) : (jumpTo a s).r15n = s.r15n := rfl
@[simp] theorem jumpTo_pc (a : Addr) (s : State) : (jumpTo a s).pc = a := rfl
@[simp] theorem jumpTo_fcw (a : Addr) (s : State) : (jumpTo a s).fcw = s.fcw := rfl
@[simp] theorem jumpTo_psap (a : Addr) (s : State) : (jumpTo a s).psap = s.psap := rfl
@[simp] theorem jumpTo_refresh (a : Addr) (s : State) : (jumpTo a s).refresh = s.refresh := rfl
@[simp] theorem jumpTo_mem (a : Addr) (s : State) : (jumpTo a s).mem = s.mem := rfl
@[simp] theorem jumpTo_halted (a : Addr) (s : State) : (jumpTo a s).halted = s.halted := rfl
@[simp] theorem jumpTo_mo (a : Addr) (s : State) : (jumpTo a s).mo = s.mo := rfl
@[simp] theorem jumpTo_nmiPending (a : Addr) (s : State) : (jumpTo a s).nmiPending = s.nmiPending := rfl
@[simp] theorem jumpTo_viReq (a : Addr) (s : State) : (jumpTo a s).viReq = s.viReq := rfl
@[simp] theorem jumpTo_nviReq (a : Addr) (s : State) : (jumpTo a s).nviReq = s.nviReq := rfl
@[simp] theorem jumpTo_segtReq (a : Addr) (s : State) : (jumpTo a s).segtReq = s.segtReq := rfl
@[simp] theorem jumpTo_resetReq (a : Addr) (s : State) : (jumpTo a s).resetReq = s.resetReq := rfl
@[simp] theorem jumpTo_stale (a : Addr) (s : State) : (jumpTo a s).stale = s.stale := rfl
@[simp] theorem jumpTo_ident (a : Addr) (s : State) : (jumpTo a s).ident = s.ident := rfl
@[simp] theorem jumpTo_inputs (a : Addr) (s : State) : (jumpTo a s).inputs = s.inputs := rfl
@[simp] theorem jumpTo_trace (a : Addr) (s : State) : (jumpTo a s).trace = s.trace := rfl
@[simp] theorem jumpTo_map (a : Addr) (s : State) : (jumpTo a s).map = s.map := rfl
@[simp] theorem jumpTo_draws (a : Addr) (s : State) : (jumpTo a s).draws = s.draws := rfl

@[simp] theorem advance_gpr (n : Nat) (s : State) : (advance n s).gpr = s.gpr := rfl
@[simp] theorem advance_r14s (n : Nat) (s : State) : (advance n s).r14s = s.r14s := rfl
@[simp] theorem advance_r15s (n : Nat) (s : State) : (advance n s).r15s = s.r15s := rfl
@[simp] theorem advance_r14n (n : Nat) (s : State) : (advance n s).r14n = s.r14n := rfl
@[simp] theorem advance_r15n (n : Nat) (s : State) : (advance n s).r15n = s.r15n := rfl
@[simp] theorem advance_pc (n : Nat) (s : State) : (advance n s).pc = nextPc n s := rfl
@[simp] theorem advance_fcw (n : Nat) (s : State) : (advance n s).fcw = s.fcw := rfl
@[simp] theorem advance_psap (n : Nat) (s : State) : (advance n s).psap = s.psap := rfl
@[simp] theorem advance_refresh (n : Nat) (s : State) : (advance n s).refresh = s.refresh := rfl
@[simp] theorem advance_mem (n : Nat) (s : State) : (advance n s).mem = s.mem := rfl
@[simp] theorem advance_halted (n : Nat) (s : State) : (advance n s).halted = s.halted := rfl
@[simp] theorem advance_mo (n : Nat) (s : State) : (advance n s).mo = s.mo := rfl
@[simp] theorem advance_nmiPending (n : Nat) (s : State) : (advance n s).nmiPending = s.nmiPending := rfl
@[simp] theorem advance_viReq (n : Nat) (s : State) : (advance n s).viReq = s.viReq := rfl
@[simp] theorem advance_nviReq (n : Nat) (s : State) : (advance n s).nviReq = s.nviReq := rfl
@[simp] theorem advance_segtReq (n : Nat) (s : State) : (advance n s).segtReq = s.segtReq := rfl
@[simp] theorem advance_resetReq (n : Nat) (s : State) : (advance n s).resetReq = s.resetReq := rfl
@[simp] theorem advance_stale (n : Nat) (s : State) : (advance n s).stale = s.stale := rfl
@[simp] theorem advance_ident (n : Nat) (s : State) : (advance n s).ident = s.ident := rfl
@[simp] theorem advance_inputs (n : Nat) (s : State) : (advance n s).inputs = s.inputs := rfl
@[simp] theorem advance_trace (n : Nat) (s : State) : (advance n s).trace = s.trace := rfl
@[simp] theorem advance_map (n : Nat) (s : State) : (advance n s).map = s.map := rfl
@[simp] theorem advance_draws (n : Nat) (s : State) : (advance n s).draws = s.draws := rfl

@[simp] theorem logIo_gpr (e : IoEvent) (s : State) : (logIo e s).gpr = s.gpr := rfl
@[simp] theorem logIo_r14s (e : IoEvent) (s : State) : (logIo e s).r14s = s.r14s := rfl
@[simp] theorem logIo_r15s (e : IoEvent) (s : State) : (logIo e s).r15s = s.r15s := rfl
@[simp] theorem logIo_r14n (e : IoEvent) (s : State) : (logIo e s).r14n = s.r14n := rfl
@[simp] theorem logIo_r15n (e : IoEvent) (s : State) : (logIo e s).r15n = s.r15n := rfl
@[simp] theorem logIo_pc (e : IoEvent) (s : State) : (logIo e s).pc = s.pc := rfl
@[simp] theorem logIo_fcw (e : IoEvent) (s : State) : (logIo e s).fcw = s.fcw := rfl
@[simp] theorem logIo_psap (e : IoEvent) (s : State) : (logIo e s).psap = s.psap := rfl
@[simp] theorem logIo_refresh (e : IoEvent) (s : State) : (logIo e s).refresh = s.refresh := rfl
@[simp] theorem logIo_mem (e : IoEvent) (s : State) : (logIo e s).mem = s.mem := rfl
@[simp] theorem logIo_halted (e : IoEvent) (s : State) : (logIo e s).halted = s.halted := rfl
@[simp] theorem logIo_mo (e : IoEvent) (s : State) : (logIo e s).mo = s.mo := rfl
@[simp] theorem logIo_nmiPending (e : IoEvent) (s : State) : (logIo e s).nmiPending = s.nmiPending := rfl
@[simp] theorem logIo_viReq (e : IoEvent) (s : State) : (logIo e s).viReq = s.viReq := rfl
@[simp] theorem logIo_nviReq (e : IoEvent) (s : State) : (logIo e s).nviReq = s.nviReq := rfl
@[simp] theorem logIo_segtReq (e : IoEvent) (s : State) : (logIo e s).segtReq = s.segtReq := rfl
@[simp] theorem logIo_resetReq (e : IoEvent) (s : State) : (logIo e s).resetReq = s.resetReq := rfl
@[simp] theorem logIo_stale (e : IoEvent) (s : State) : (logIo e s).stale = s.stale := rfl
@[simp] theorem logIo_ident (e : IoEvent) (s : State) : (logIo e s).ident = s.ident := rfl
@[simp] theorem logIo_inputs (e : IoEvent) (s : State) : (logIo e s).inputs = s.inputs := rfl
@[simp] theorem logIo_trace (e : IoEvent) (s : State) : (logIo e s).trace = s.trace ++ [e] := rfl
@[simp] theorem logIo_map (e : IoEvent) (s : State) : (logIo e s).map = s.map := rfl
@[simp] theorem logIo_draws (e : IoEvent) (s : State) : (logIo e s).draws = s.draws := rfl

@[simp] theorem pokeByte_gpr (a : Addr) (b : Byte) (s : State) : (pokeByte a b s).gpr = s.gpr := rfl
@[simp] theorem pokeByte_r14s (a : Addr) (b : Byte) (s : State) : (pokeByte a b s).r14s = s.r14s := rfl
@[simp] theorem pokeByte_r15s (a : Addr) (b : Byte) (s : State) : (pokeByte a b s).r15s = s.r15s := rfl
@[simp] theorem pokeByte_r14n (a : Addr) (b : Byte) (s : State) : (pokeByte a b s).r14n = s.r14n := rfl
@[simp] theorem pokeByte_r15n (a : Addr) (b : Byte) (s : State) : (pokeByte a b s).r15n = s.r15n := rfl
@[simp] theorem pokeByte_pc (a : Addr) (b : Byte) (s : State) : (pokeByte a b s).pc = s.pc := rfl
@[simp] theorem pokeByte_fcw (a : Addr) (b : Byte) (s : State) : (pokeByte a b s).fcw = s.fcw := rfl
@[simp] theorem pokeByte_psap (a : Addr) (b : Byte) (s : State) : (pokeByte a b s).psap = s.psap := rfl
@[simp] theorem pokeByte_refresh (a : Addr) (b : Byte) (s : State) : (pokeByte a b s).refresh = s.refresh := rfl
@[simp] theorem pokeByte_mem (a : Addr) (b : Byte) (s : State) : (pokeByte a b s).mem = s.mem.write (linear a) b := rfl
@[simp] theorem pokeByte_halted (a : Addr) (b : Byte) (s : State) : (pokeByte a b s).halted = s.halted := rfl
@[simp] theorem pokeByte_mo (a : Addr) (b : Byte) (s : State) : (pokeByte a b s).mo = s.mo := rfl
@[simp] theorem pokeByte_nmiPending (a : Addr) (b : Byte) (s : State) : (pokeByte a b s).nmiPending = s.nmiPending := rfl
@[simp] theorem pokeByte_viReq (a : Addr) (b : Byte) (s : State) : (pokeByte a b s).viReq = s.viReq := rfl
@[simp] theorem pokeByte_nviReq (a : Addr) (b : Byte) (s : State) : (pokeByte a b s).nviReq = s.nviReq := rfl
@[simp] theorem pokeByte_segtReq (a : Addr) (b : Byte) (s : State) : (pokeByte a b s).segtReq = s.segtReq := rfl
@[simp] theorem pokeByte_resetReq (a : Addr) (b : Byte) (s : State) : (pokeByte a b s).resetReq = s.resetReq := rfl
@[simp] theorem pokeByte_stale (a : Addr) (b : Byte) (s : State) : (pokeByte a b s).stale = s.stale := rfl
@[simp] theorem pokeByte_ident (a : Addr) (b : Byte) (s : State) : (pokeByte a b s).ident = s.ident := rfl
@[simp] theorem pokeByte_inputs (a : Addr) (b : Byte) (s : State) : (pokeByte a b s).inputs = s.inputs := rfl
@[simp] theorem pokeByte_trace (a : Addr) (b : Byte) (s : State) : (pokeByte a b s).trace = s.trace := rfl
@[simp] theorem pokeByte_map (a : Addr) (b : Byte) (s : State) : (pokeByte a b s).map = s.map := rfl
@[simp] theorem pokeByte_draws (a : Addr) (b : Byte) (s : State) : (pokeByte a b s).draws = s.draws := rfl

@[simp] theorem markStale_gpr (g : Guard) (l : List Addr) (s : State) : (markStale g l s).gpr = s.gpr := rfl
@[simp] theorem markStale_r14s (g : Guard) (l : List Addr) (s : State) : (markStale g l s).r14s = s.r14s := rfl
@[simp] theorem markStale_r15s (g : Guard) (l : List Addr) (s : State) : (markStale g l s).r15s = s.r15s := rfl
@[simp] theorem markStale_r14n (g : Guard) (l : List Addr) (s : State) : (markStale g l s).r14n = s.r14n := rfl
@[simp] theorem markStale_r15n (g : Guard) (l : List Addr) (s : State) : (markStale g l s).r15n = s.r15n := rfl
@[simp] theorem markStale_pc (g : Guard) (l : List Addr) (s : State) : (markStale g l s).pc = s.pc := rfl
@[simp] theorem markStale_fcw (g : Guard) (l : List Addr) (s : State) : (markStale g l s).fcw = s.fcw := rfl
@[simp] theorem markStale_psap (g : Guard) (l : List Addr) (s : State) : (markStale g l s).psap = s.psap := rfl
@[simp] theorem markStale_refresh (g : Guard) (l : List Addr) (s : State) : (markStale g l s).refresh = s.refresh := rfl
@[simp] theorem markStale_mem (g : Guard) (l : List Addr) (s : State) : (markStale g l s).mem = s.mem := rfl
@[simp] theorem markStale_halted (g : Guard) (l : List Addr) (s : State) : (markStale g l s).halted = s.halted := rfl
@[simp] theorem markStale_mo (g : Guard) (l : List Addr) (s : State) : (markStale g l s).mo = s.mo := rfl
@[simp] theorem markStale_nmiPending (g : Guard) (l : List Addr) (s : State) : (markStale g l s).nmiPending = s.nmiPending := rfl
@[simp] theorem markStale_viReq (g : Guard) (l : List Addr) (s : State) : (markStale g l s).viReq = s.viReq := rfl
@[simp] theorem markStale_nviReq (g : Guard) (l : List Addr) (s : State) : (markStale g l s).nviReq = s.nviReq := rfl
@[simp] theorem markStale_segtReq (g : Guard) (l : List Addr) (s : State) : (markStale g l s).segtReq = s.segtReq := rfl
@[simp] theorem markStale_resetReq (g : Guard) (l : List Addr) (s : State) : (markStale g l s).resetReq = s.resetReq := rfl
@[simp] theorem markStale_stale (g : Guard) (l : List Addr) (s : State) : (markStale g l s).stale = (s.stale || l.any g.covers) := rfl
@[simp] theorem markStale_ident (g : Guard) (l : List Addr) (s : State) : (markStale g l s).ident = s.ident := rfl
@[simp] theorem markStale_inputs (g : Guard) (l : List Addr) (s : State) : (markStale g l s).inputs = s.inputs := rfl
@[simp] theorem markStale_trace (g : Guard) (l : List Addr) (s : State) : (markStale g l s).trace = s.trace := rfl
@[simp] theorem markStale_map (g : Guard) (l : List Addr) (s : State) : (markStale g l s).map = s.map := rfl
@[simp] theorem markStale_draws (g : Guard) (l : List Addr) (s : State) : (markStale g l s).draws = s.draws := rfl

@[simp] theorem ioRead_gpr (sp : Space) (port : Word) (w : Width) (s : State) : (ioRead sp port w s).gpr = s.gpr := rfl
@[simp] theorem ioRead_r14s (sp : Space) (port : Word) (w : Width) (s : State) : (ioRead sp port w s).r14s = s.r14s := rfl
@[simp] theorem ioRead_r15s (sp : Space) (port : Word) (w : Width) (s : State) : (ioRead sp port w s).r15s = s.r15s := rfl
@[simp] theorem ioRead_r14n (sp : Space) (port : Word) (w : Width) (s : State) : (ioRead sp port w s).r14n = s.r14n := rfl
@[simp] theorem ioRead_r15n (sp : Space) (port : Word) (w : Width) (s : State) : (ioRead sp port w s).r15n = s.r15n := rfl
@[simp] theorem ioRead_pc (sp : Space) (port : Word) (w : Width) (s : State) : (ioRead sp port w s).pc = s.pc := rfl
@[simp] theorem ioRead_fcw (sp : Space) (port : Word) (w : Width) (s : State) : (ioRead sp port w s).fcw = s.fcw := rfl
@[simp] theorem ioRead_psap (sp : Space) (port : Word) (w : Width) (s : State) : (ioRead sp port w s).psap = s.psap := rfl
@[simp] theorem ioRead_refresh (sp : Space) (port : Word) (w : Width) (s : State) : (ioRead sp port w s).refresh = s.refresh := rfl
@[simp] theorem ioRead_mem (sp : Space) (port : Word) (w : Width) (s : State) : (ioRead sp port w s).mem = s.mem := rfl
@[simp] theorem ioRead_halted (sp : Space) (port : Word) (w : Width) (s : State) : (ioRead sp port w s).halted = s.halted := rfl
@[simp] theorem ioRead_mo (sp : Space) (port : Word) (w : Width) (s : State) : (ioRead sp port w s).mo = s.mo := rfl
@[simp] theorem ioRead_nmiPending (sp : Space) (port : Word) (w : Width) (s : State) : (ioRead sp port w s).nmiPending = s.nmiPending := rfl
@[simp] theorem ioRead_viReq (sp : Space) (port : Word) (w : Width) (s : State) : (ioRead sp port w s).viReq = s.viReq := rfl
@[simp] theorem ioRead_nviReq (sp : Space) (port : Word) (w : Width) (s : State) : (ioRead sp port w s).nviReq = s.nviReq := rfl
@[simp] theorem ioRead_segtReq (sp : Space) (port : Word) (w : Width) (s : State) : (ioRead sp port w s).segtReq = s.segtReq := rfl
@[simp] theorem ioRead_resetReq (sp : Space) (port : Word) (w : Width) (s : State) : (ioRead sp port w s).resetReq = s.resetReq := rfl
@[simp] theorem ioRead_stale (sp : Space) (port : Word) (w : Width) (s : State) : (ioRead sp port w s).stale = s.stale := rfl
@[simp] theorem ioRead_ident (sp : Space) (port : Word) (w : Width) (s : State) : (ioRead sp port w s).ident = s.ident := rfl
@[simp] theorem ioRead_inputs (sp : Space) (port : Word) (w : Width) (s : State) : (ioRead sp port w s).inputs = s.inputs := rfl
@[simp] theorem ioRead_trace (sp : Space) (port : Word) (w : Width) (s : State) : (ioRead sp port w s).trace = s.trace ++ [.inp sp port w ((portValue sp port w s).setWidth 16)] := rfl
@[simp] theorem ioRead_map (sp : Space) (port : Word) (w : Width) (s : State) : (ioRead sp port w s).map = s.map := rfl
@[simp] theorem ioRead_draws (sp : Space) (port : Word) (w : Width) (s : State) : (ioRead sp port w s).draws = s.draws + 1 := rfl

@[simp] theorem ioWrite_gpr (sp : Space) (port : Word) (w : Width) (v : BitVec w.bits) (s : State) : (ioWrite sp port w v s).gpr = s.gpr := rfl
@[simp] theorem ioWrite_r14s (sp : Space) (port : Word) (w : Width) (v : BitVec w.bits) (s : State) : (ioWrite sp port w v s).r14s = s.r14s := rfl
@[simp] theorem ioWrite_r15s (sp : Space) (port : Word) (w : Width) (v : BitVec w.bits) (s : State) : (ioWrite sp port w v s).r15s = s.r15s := rfl
@[simp] theorem ioWrite_r14n (sp : Space) (port : Word) (w : Width) (v : BitVec w.bits) (s : State) : (ioWrite sp port w v s).r14n = s.r14n := rfl
@[simp] theorem ioWrite_r15n (sp : Space) (port : Word) (w : Width) (v : BitVec w.bits) (s : State) : (ioWrite sp port w v s).r15n = s.r15n := rfl
@[simp] theorem ioWrite_pc (sp : Space) (port : Word) (w : Width) (v : BitVec w.bits) (s : State) : (ioWrite sp port w v s).pc = s.pc := rfl
@[simp] theorem ioWrite_fcw (sp : Space) (port : Word) (w : Width) (v : BitVec w.bits) (s : State) : (ioWrite sp port w v s).fcw = s.fcw := rfl
@[simp] theorem ioWrite_psap (sp : Space) (port : Word) (w : Width) (v : BitVec w.bits) (s : State) : (ioWrite sp port w v s).psap = s.psap := rfl
@[simp] theorem ioWrite_refresh (sp : Space) (port : Word) (w : Width) (v : BitVec w.bits) (s : State) : (ioWrite sp port w v s).refresh = s.refresh := rfl
@[simp] theorem ioWrite_mem (sp : Space) (port : Word) (w : Width) (v : BitVec w.bits) (s : State) : (ioWrite sp port w v s).mem = s.mem := rfl
@[simp] theorem ioWrite_halted (sp : Space) (port : Word) (w : Width) (v : BitVec w.bits) (s : State) : (ioWrite sp port w v s).halted = s.halted := rfl
@[simp] theorem ioWrite_mo (sp : Space) (port : Word) (w : Width) (v : BitVec w.bits) (s : State) : (ioWrite sp port w v s).mo = s.mo := rfl
@[simp] theorem ioWrite_nmiPending (sp : Space) (port : Word) (w : Width) (v : BitVec w.bits) (s : State) : (ioWrite sp port w v s).nmiPending = s.nmiPending := rfl
@[simp] theorem ioWrite_viReq (sp : Space) (port : Word) (w : Width) (v : BitVec w.bits) (s : State) : (ioWrite sp port w v s).viReq = s.viReq := rfl
@[simp] theorem ioWrite_nviReq (sp : Space) (port : Word) (w : Width) (v : BitVec w.bits) (s : State) : (ioWrite sp port w v s).nviReq = s.nviReq := rfl
@[simp] theorem ioWrite_segtReq (sp : Space) (port : Word) (w : Width) (v : BitVec w.bits) (s : State) : (ioWrite sp port w v s).segtReq = s.segtReq := rfl
@[simp] theorem ioWrite_resetReq (sp : Space) (port : Word) (w : Width) (v : BitVec w.bits) (s : State) : (ioWrite sp port w v s).resetReq = s.resetReq := rfl
@[simp] theorem ioWrite_stale (sp : Space) (port : Word) (w : Width) (v : BitVec w.bits) (s : State) : (ioWrite sp port w v s).stale = s.stale := rfl
@[simp] theorem ioWrite_ident (sp : Space) (port : Word) (w : Width) (v : BitVec w.bits) (s : State) : (ioWrite sp port w v s).ident = s.ident := rfl
@[simp] theorem ioWrite_inputs (sp : Space) (port : Word) (w : Width) (v : BitVec w.bits) (s : State) : (ioWrite sp port w v s).inputs = s.inputs := rfl
@[simp] theorem ioWrite_trace (sp : Space) (port : Word) (w : Width) (v : BitVec w.bits) (s : State) : (ioWrite sp port w v s).trace = s.trace ++ [.out sp port w (v.setWidth 16)] := rfl
@[simp] theorem ioWrite_map (sp : Space) (port : Word) (w : Width) (v : BitVec w.bits) (s : State) : (ioWrite sp port w v s).map = s.map := rfl
@[simp] theorem ioWrite_draws (sp : Space) (port : Word) (w : Width) (v : BitVec w.bits) (s : State) : (ioWrite sp port w v s).draws = s.draws := rfl

@[simp] theorem writeWord_pc (r : Reg) (v : Word) (s : State) : (writeWord r v s).pc = s.pc := by
  unfold writeWord; (repeat' split) <;> rfl
@[simp] theorem writeWord_fcw (r : Reg) (v : Word) (s : State) : (writeWord r v s).fcw = s.fcw := by
  unfold writeWord; (repeat' split) <;> rfl
@[simp] theorem writeWord_psap (r : Reg) (v : Word) (s : State) : (writeWord r v s).psap = s.psap := by
  unfold writeWord; (repeat' split) <;> rfl
@[simp] theorem writeWord_refresh (r : Reg) (v : Word) (s : State) : (writeWord r v s).refresh = s.refresh := by
  unfold writeWord; (repeat' split) <;> rfl
@[simp] theorem writeWord_mem (r : Reg) (v : Word) (s : State) : (writeWord r v s).mem = s.mem := by
  unfold writeWord; (repeat' split) <;> rfl
@[simp] theorem writeWord_halted (r : Reg) (v : Word) (s : State) : (writeWord r v s).halted = s.halted := by
  unfold writeWord; (repeat' split) <;> rfl
@[simp] theorem writeWord_mo (r : Reg) (v : Word) (s : State) : (writeWord r v s).mo = s.mo := by
  unfold writeWord; (repeat' split) <;> rfl
@[simp] theorem writeWord_nmiPending (r : Reg) (v : Word) (s : State) : (writeWord r v s).nmiPending = s.nmiPending := by
  unfold writeWord; (repeat' split) <;> rfl
@[simp] theorem writeWord_viReq (r : Reg) (v : Word) (s : State) : (writeWord r v s).viReq = s.viReq := by
  unfold writeWord; (repeat' split) <;> rfl
@[simp] theorem writeWord_nviReq (r : Reg) (v : Word) (s : State) : (writeWord r v s).nviReq = s.nviReq := by
  unfold writeWord; (repeat' split) <;> rfl
@[simp] theorem writeWord_segtReq (r : Reg) (v : Word) (s : State) : (writeWord r v s).segtReq = s.segtReq := by
  unfold writeWord; (repeat' split) <;> rfl
@[simp] theorem writeWord_resetReq (r : Reg) (v : Word) (s : State) : (writeWord r v s).resetReq = s.resetReq := by
  unfold writeWord; (repeat' split) <;> rfl
@[simp] theorem writeWord_stale (r : Reg) (v : Word) (s : State) : (writeWord r v s).stale = s.stale := by
  unfold writeWord; (repeat' split) <;> rfl
@[simp] theorem writeWord_ident (r : Reg) (v : Word) (s : State) : (writeWord r v s).ident = s.ident := by
  unfold writeWord; (repeat' split) <;> rfl
@[simp] theorem writeWord_inputs (r : Reg) (v : Word) (s : State) : (writeWord r v s).inputs = s.inputs := by
  unfold writeWord; (repeat' split) <;> rfl
@[simp] theorem writeWord_trace (r : Reg) (v : Word) (s : State) : (writeWord r v s).trace = s.trace := by
  unfold writeWord; (repeat' split) <;> rfl
@[simp] theorem writeWord_map (r : Reg) (v : Word) (s : State) : (writeWord r v s).map = s.map := by
  unfold writeWord; (repeat' split) <;> rfl
@[simp] theorem writeWord_draws (r : Reg) (v : Word) (s : State) : (writeWord r v s).draws = s.draws := by
  unfold writeWord; (repeat' split) <;> rfl

@[simp] theorem writeByte_pc (r : Reg) (v : Byte) (s : State) : (writeByte r v s).pc = s.pc := by
  simp [writeByte]
@[simp] theorem writeByte_fcw (r : Reg) (v : Byte) (s : State) : (writeByte r v s).fcw = s.fcw := by
  simp [writeByte]
@[simp] theorem writeByte_psap (r : Reg) (v : Byte) (s : State) : (writeByte r v s).psap = s.psap := by
  simp [writeByte]
@[simp] theorem writeByte_refresh (r : Reg) (v : Byte) (s : State) : (writeByte r v s).refresh = s.refresh := by
  simp [writeByte]
@[simp] theorem writeByte_mem (r : Reg) (v : Byte) (s : State) : (writeByte r v s).mem = s.mem := by
  simp [writeByte]
@[simp] theorem writeByte_halted (r : Reg) (v : Byte) (s : State) : (writeByte r v s).halted = s.halted := by
  simp [writeByte]
@[simp] theorem writeByte_mo (r : Reg) (v : Byte) (s : State) : (writeByte r v s).mo = s.mo := by
  simp [writeByte]
@[simp] theorem writeByte_nmiPending (r : Reg) (v : Byte) (s : State) : (writeByte r v s).nmiPending = s.nmiPending := by
  simp [writeByte]
@[simp] theorem writeByte_viReq (r : Reg) (v : Byte) (s : State) : (writeByte r v s).viReq = s.viReq := by
  simp [writeByte]
@[simp] theorem writeByte_nviReq (r : Reg) (v : Byte) (s : State) : (writeByte r v s).nviReq = s.nviReq := by
  simp [writeByte]
@[simp] theorem writeByte_segtReq (r : Reg) (v : Byte) (s : State) : (writeByte r v s).segtReq = s.segtReq := by
  simp [writeByte]
@[simp] theorem writeByte_resetReq (r : Reg) (v : Byte) (s : State) : (writeByte r v s).resetReq = s.resetReq := by
  simp [writeByte]
@[simp] theorem writeByte_stale (r : Reg) (v : Byte) (s : State) : (writeByte r v s).stale = s.stale := by
  simp [writeByte]
@[simp] theorem writeByte_ident (r : Reg) (v : Byte) (s : State) : (writeByte r v s).ident = s.ident := by
  simp [writeByte]
@[simp] theorem writeByte_inputs (r : Reg) (v : Byte) (s : State) : (writeByte r v s).inputs = s.inputs := by
  simp [writeByte]
@[simp] theorem writeByte_trace (r : Reg) (v : Byte) (s : State) : (writeByte r v s).trace = s.trace := by
  simp [writeByte]
@[simp] theorem writeByte_map (r : Reg) (v : Byte) (s : State) : (writeByte r v s).map = s.map := by
  simp [writeByte]
@[simp] theorem writeByte_draws (r : Reg) (v : Byte) (s : State) : (writeByte r v s).draws = s.draws := by
  simp [writeByte]

@[simp] theorem writeLong_pc (r : Reg) (v : Long) (s : State) : (writeLong r v s).pc = s.pc := by
  simp [writeLong]
@[simp] theorem writeLong_fcw (r : Reg) (v : Long) (s : State) : (writeLong r v s).fcw = s.fcw := by
  simp [writeLong]
@[simp] theorem writeLong_psap (r : Reg) (v : Long) (s : State) : (writeLong r v s).psap = s.psap := by
  simp [writeLong]
@[simp] theorem writeLong_refresh (r : Reg) (v : Long) (s : State) : (writeLong r v s).refresh = s.refresh := by
  simp [writeLong]
@[simp] theorem writeLong_mem (r : Reg) (v : Long) (s : State) : (writeLong r v s).mem = s.mem := by
  simp [writeLong]
@[simp] theorem writeLong_halted (r : Reg) (v : Long) (s : State) : (writeLong r v s).halted = s.halted := by
  simp [writeLong]
@[simp] theorem writeLong_mo (r : Reg) (v : Long) (s : State) : (writeLong r v s).mo = s.mo := by
  simp [writeLong]
@[simp] theorem writeLong_nmiPending (r : Reg) (v : Long) (s : State) : (writeLong r v s).nmiPending = s.nmiPending := by
  simp [writeLong]
@[simp] theorem writeLong_viReq (r : Reg) (v : Long) (s : State) : (writeLong r v s).viReq = s.viReq := by
  simp [writeLong]
@[simp] theorem writeLong_nviReq (r : Reg) (v : Long) (s : State) : (writeLong r v s).nviReq = s.nviReq := by
  simp [writeLong]
@[simp] theorem writeLong_segtReq (r : Reg) (v : Long) (s : State) : (writeLong r v s).segtReq = s.segtReq := by
  simp [writeLong]
@[simp] theorem writeLong_resetReq (r : Reg) (v : Long) (s : State) : (writeLong r v s).resetReq = s.resetReq := by
  simp [writeLong]
@[simp] theorem writeLong_stale (r : Reg) (v : Long) (s : State) : (writeLong r v s).stale = s.stale := by
  simp [writeLong]
@[simp] theorem writeLong_ident (r : Reg) (v : Long) (s : State) : (writeLong r v s).ident = s.ident := by
  simp [writeLong]
@[simp] theorem writeLong_inputs (r : Reg) (v : Long) (s : State) : (writeLong r v s).inputs = s.inputs := by
  simp [writeLong]
@[simp] theorem writeLong_trace (r : Reg) (v : Long) (s : State) : (writeLong r v s).trace = s.trace := by
  simp [writeLong]
@[simp] theorem writeLong_map (r : Reg) (v : Long) (s : State) : (writeLong r v s).map = s.map := by
  simp [writeLong]
@[simp] theorem writeLong_draws (r : Reg) (v : Long) (s : State) : (writeLong r v s).draws = s.draws := by
  simp [writeLong]

@[simp] theorem writeQuad_pc (r : Reg) (v : Quad) (s : State) : (writeQuad r v s).pc = s.pc := by
  simp [writeQuad]
@[simp] theorem writeQuad_fcw (r : Reg) (v : Quad) (s : State) : (writeQuad r v s).fcw = s.fcw := by
  simp [writeQuad]
@[simp] theorem writeQuad_psap (r : Reg) (v : Quad) (s : State) : (writeQuad r v s).psap = s.psap := by
  simp [writeQuad]
@[simp] theorem writeQuad_refresh (r : Reg) (v : Quad) (s : State) : (writeQuad r v s).refresh = s.refresh := by
  simp [writeQuad]
@[simp] theorem writeQuad_mem (r : Reg) (v : Quad) (s : State) : (writeQuad r v s).mem = s.mem := by
  simp [writeQuad]
@[simp] theorem writeQuad_halted (r : Reg) (v : Quad) (s : State) : (writeQuad r v s).halted = s.halted := by
  simp [writeQuad]
@[simp] theorem writeQuad_mo (r : Reg) (v : Quad) (s : State) : (writeQuad r v s).mo = s.mo := by
  simp [writeQuad]
@[simp] theorem writeQuad_nmiPending (r : Reg) (v : Quad) (s : State) : (writeQuad r v s).nmiPending = s.nmiPending := by
  simp [writeQuad]
@[simp] theorem writeQuad_viReq (r : Reg) (v : Quad) (s : State) : (writeQuad r v s).viReq = s.viReq := by
  simp [writeQuad]
@[simp] theorem writeQuad_nviReq (r : Reg) (v : Quad) (s : State) : (writeQuad r v s).nviReq = s.nviReq := by
  simp [writeQuad]
@[simp] theorem writeQuad_segtReq (r : Reg) (v : Quad) (s : State) : (writeQuad r v s).segtReq = s.segtReq := by
  simp [writeQuad]
@[simp] theorem writeQuad_resetReq (r : Reg) (v : Quad) (s : State) : (writeQuad r v s).resetReq = s.resetReq := by
  simp [writeQuad]
@[simp] theorem writeQuad_stale (r : Reg) (v : Quad) (s : State) : (writeQuad r v s).stale = s.stale := by
  simp [writeQuad]
@[simp] theorem writeQuad_ident (r : Reg) (v : Quad) (s : State) : (writeQuad r v s).ident = s.ident := by
  simp [writeQuad]
@[simp] theorem writeQuad_inputs (r : Reg) (v : Quad) (s : State) : (writeQuad r v s).inputs = s.inputs := by
  simp [writeQuad]
@[simp] theorem writeQuad_trace (r : Reg) (v : Quad) (s : State) : (writeQuad r v s).trace = s.trace := by
  simp [writeQuad]
@[simp] theorem writeQuad_map (r : Reg) (v : Quad) (s : State) : (writeQuad r v s).map = s.map := by
  simp [writeQuad]
@[simp] theorem writeQuad_draws (r : Reg) (v : Quad) (s : State) : (writeQuad r v s).draws = s.draws := by
  simp [writeQuad]

@[simp] theorem writeReg_pc (w : Width) (r : Reg) (v : BitVec w.bits) (s : State) : (writeReg w r v s).pc = s.pc := by
  cases w <;> simp [writeReg]
@[simp] theorem writeReg_fcw (w : Width) (r : Reg) (v : BitVec w.bits) (s : State) : (writeReg w r v s).fcw = s.fcw := by
  cases w <;> simp [writeReg]
@[simp] theorem writeReg_psap (w : Width) (r : Reg) (v : BitVec w.bits) (s : State) : (writeReg w r v s).psap = s.psap := by
  cases w <;> simp [writeReg]
@[simp] theorem writeReg_refresh (w : Width) (r : Reg) (v : BitVec w.bits) (s : State) : (writeReg w r v s).refresh = s.refresh := by
  cases w <;> simp [writeReg]
@[simp] theorem writeReg_mem (w : Width) (r : Reg) (v : BitVec w.bits) (s : State) : (writeReg w r v s).mem = s.mem := by
  cases w <;> simp [writeReg]
@[simp] theorem writeReg_halted (w : Width) (r : Reg) (v : BitVec w.bits) (s : State) : (writeReg w r v s).halted = s.halted := by
  cases w <;> simp [writeReg]
@[simp] theorem writeReg_mo (w : Width) (r : Reg) (v : BitVec w.bits) (s : State) : (writeReg w r v s).mo = s.mo := by
  cases w <;> simp [writeReg]
@[simp] theorem writeReg_nmiPending (w : Width) (r : Reg) (v : BitVec w.bits) (s : State) : (writeReg w r v s).nmiPending = s.nmiPending := by
  cases w <;> simp [writeReg]
@[simp] theorem writeReg_viReq (w : Width) (r : Reg) (v : BitVec w.bits) (s : State) : (writeReg w r v s).viReq = s.viReq := by
  cases w <;> simp [writeReg]
@[simp] theorem writeReg_nviReq (w : Width) (r : Reg) (v : BitVec w.bits) (s : State) : (writeReg w r v s).nviReq = s.nviReq := by
  cases w <;> simp [writeReg]
@[simp] theorem writeReg_segtReq (w : Width) (r : Reg) (v : BitVec w.bits) (s : State) : (writeReg w r v s).segtReq = s.segtReq := by
  cases w <;> simp [writeReg]
@[simp] theorem writeReg_resetReq (w : Width) (r : Reg) (v : BitVec w.bits) (s : State) : (writeReg w r v s).resetReq = s.resetReq := by
  cases w <;> simp [writeReg]
@[simp] theorem writeReg_stale (w : Width) (r : Reg) (v : BitVec w.bits) (s : State) : (writeReg w r v s).stale = s.stale := by
  cases w <;> simp [writeReg]
@[simp] theorem writeReg_ident (w : Width) (r : Reg) (v : BitVec w.bits) (s : State) : (writeReg w r v s).ident = s.ident := by
  cases w <;> simp [writeReg]
@[simp] theorem writeReg_inputs (w : Width) (r : Reg) (v : BitVec w.bits) (s : State) : (writeReg w r v s).inputs = s.inputs := by
  cases w <;> simp [writeReg]
@[simp] theorem writeReg_trace (w : Width) (r : Reg) (v : BitVec w.bits) (s : State) : (writeReg w r v s).trace = s.trace := by
  cases w <;> simp [writeReg]
@[simp] theorem writeReg_map (w : Width) (r : Reg) (v : BitVec w.bits) (s : State) : (writeReg w r v s).map = s.map := by
  cases w <;> simp [writeReg]
@[simp] theorem writeReg_draws (w : Width) (r : Reg) (v : BitVec w.bits) (s : State) : (writeReg w r v s).draws = s.draws := by
  cases w <;> simp [writeReg]

@[simp] theorem stepPointer_pc (p : Reg) (k : Word) (s : State) : (stepPointer p k s).pc = s.pc := by
  simp [stepPointer]
@[simp] theorem stepPointer_fcw (p : Reg) (k : Word) (s : State) : (stepPointer p k s).fcw = s.fcw := by
  simp [stepPointer]
@[simp] theorem stepPointer_psap (p : Reg) (k : Word) (s : State) : (stepPointer p k s).psap = s.psap := by
  simp [stepPointer]
@[simp] theorem stepPointer_refresh (p : Reg) (k : Word) (s : State) : (stepPointer p k s).refresh = s.refresh := by
  simp [stepPointer]
@[simp] theorem stepPointer_mem (p : Reg) (k : Word) (s : State) : (stepPointer p k s).mem = s.mem := by
  simp [stepPointer]
@[simp] theorem stepPointer_halted (p : Reg) (k : Word) (s : State) : (stepPointer p k s).halted = s.halted := by
  simp [stepPointer]
@[simp] theorem stepPointer_mo (p : Reg) (k : Word) (s : State) : (stepPointer p k s).mo = s.mo := by
  simp [stepPointer]
@[simp] theorem stepPointer_nmiPending (p : Reg) (k : Word) (s : State) : (stepPointer p k s).nmiPending = s.nmiPending := by
  simp [stepPointer]
@[simp] theorem stepPointer_viReq (p : Reg) (k : Word) (s : State) : (stepPointer p k s).viReq = s.viReq := by
  simp [stepPointer]
@[simp] theorem stepPointer_nviReq (p : Reg) (k : Word) (s : State) : (stepPointer p k s).nviReq = s.nviReq := by
  simp [stepPointer]
@[simp] theorem stepPointer_segtReq (p : Reg) (k : Word) (s : State) : (stepPointer p k s).segtReq = s.segtReq := by
  simp [stepPointer]
@[simp] theorem stepPointer_resetReq (p : Reg) (k : Word) (s : State) : (stepPointer p k s).resetReq = s.resetReq := by
  simp [stepPointer]
@[simp] theorem stepPointer_stale (p : Reg) (k : Word) (s : State) : (stepPointer p k s).stale = s.stale := by
  simp [stepPointer]
@[simp] theorem stepPointer_ident (p : Reg) (k : Word) (s : State) : (stepPointer p k s).ident = s.ident := by
  simp [stepPointer]
@[simp] theorem stepPointer_inputs (p : Reg) (k : Word) (s : State) : (stepPointer p k s).inputs = s.inputs := by
  simp [stepPointer]
@[simp] theorem stepPointer_trace (p : Reg) (k : Word) (s : State) : (stepPointer p k s).trace = s.trace := by
  simp [stepPointer]
@[simp] theorem stepPointer_map (p : Reg) (k : Word) (s : State) : (stepPointer p k s).map = s.map := by
  simp [stepPointer]
@[simp] theorem stepPointer_draws (p : Reg) (k : Word) (s : State) : (stepPointer p k s).draws = s.draws := by
  simp [stepPointer]

@[simp] theorem poke_gpr (w : Width) (a : Addr) (v : BitVec w.bits) (s : State) : (poke w a v s).gpr = s.gpr := by
  cases w <;> rfl
@[simp] theorem poke_r14s (w : Width) (a : Addr) (v : BitVec w.bits) (s : State) : (poke w a v s).r14s = s.r14s := by
  cases w <;> rfl
@[simp] theorem poke_r15s (w : Width) (a : Addr) (v : BitVec w.bits) (s : State) : (poke w a v s).r15s = s.r15s := by
  cases w <;> rfl
@[simp] theorem poke_r14n (w : Width) (a : Addr) (v : BitVec w.bits) (s : State) : (poke w a v s).r14n = s.r14n := by
  cases w <;> rfl
@[simp] theorem poke_r15n (w : Width) (a : Addr) (v : BitVec w.bits) (s : State) : (poke w a v s).r15n = s.r15n := by
  cases w <;> rfl
@[simp] theorem poke_pc (w : Width) (a : Addr) (v : BitVec w.bits) (s : State) : (poke w a v s).pc = s.pc := by
  cases w <;> rfl
@[simp] theorem poke_fcw (w : Width) (a : Addr) (v : BitVec w.bits) (s : State) : (poke w a v s).fcw = s.fcw := by
  cases w <;> rfl
@[simp] theorem poke_psap (w : Width) (a : Addr) (v : BitVec w.bits) (s : State) : (poke w a v s).psap = s.psap := by
  cases w <;> rfl
@[simp] theorem poke_refresh (w : Width) (a : Addr) (v : BitVec w.bits) (s : State) : (poke w a v s).refresh = s.refresh := by
  cases w <;> rfl
@[simp] theorem poke_halted (w : Width) (a : Addr) (v : BitVec w.bits) (s : State) : (poke w a v s).halted = s.halted := by
  cases w <;> rfl
@[simp] theorem poke_mo (w : Width) (a : Addr) (v : BitVec w.bits) (s : State) : (poke w a v s).mo = s.mo := by
  cases w <;> rfl
@[simp] theorem poke_nmiPending (w : Width) (a : Addr) (v : BitVec w.bits) (s : State) : (poke w a v s).nmiPending = s.nmiPending := by
  cases w <;> rfl
@[simp] theorem poke_viReq (w : Width) (a : Addr) (v : BitVec w.bits) (s : State) : (poke w a v s).viReq = s.viReq := by
  cases w <;> rfl
@[simp] theorem poke_nviReq (w : Width) (a : Addr) (v : BitVec w.bits) (s : State) : (poke w a v s).nviReq = s.nviReq := by
  cases w <;> rfl
@[simp] theorem poke_segtReq (w : Width) (a : Addr) (v : BitVec w.bits) (s : State) : (poke w a v s).segtReq = s.segtReq := by
  cases w <;> rfl
@[simp] theorem poke_resetReq (w : Width) (a : Addr) (v : BitVec w.bits) (s : State) : (poke w a v s).resetReq = s.resetReq := by
  cases w <;> rfl
@[simp] theorem poke_stale (w : Width) (a : Addr) (v : BitVec w.bits) (s : State) : (poke w a v s).stale = s.stale := by
  cases w <;> rfl
@[simp] theorem poke_ident (w : Width) (a : Addr) (v : BitVec w.bits) (s : State) : (poke w a v s).ident = s.ident := by
  cases w <;> rfl
@[simp] theorem poke_inputs (w : Width) (a : Addr) (v : BitVec w.bits) (s : State) : (poke w a v s).inputs = s.inputs := by
  cases w <;> rfl
@[simp] theorem poke_trace (w : Width) (a : Addr) (v : BitVec w.bits) (s : State) : (poke w a v s).trace = s.trace := by
  cases w <;> rfl
@[simp] theorem poke_map (w : Width) (a : Addr) (v : BitVec w.bits) (s : State) : (poke w a v s).map = s.map := by
  cases w <;> rfl
@[simp] theorem poke_draws (w : Width) (a : Addr) (v : BitVec w.bits) (s : State) : (poke w a v s).draws = s.draws := by
  cases w <;> rfl

end Sys2Proof.Machine
end

