-- ==== Sys2Proof/Laws/Registers.lean ====
section
/-! SUPPORT. Reading a register after writing one: the views of the sixteen word registers and the banks of
R14 and R15 (10_state.md R21 to R24). -/

namespace Sys2Proof.Machine

/-- A word register depends on the register cells and the mode only. -/
theorem readWord_congr {s t : State} (r : Reg) (hg : t.gpr = s.gpr) (h1 : t.r14s = s.r14s) (h2 : t.r15s = s.r15s)
    (h3 : t.r14n = s.r14n) (h4 : t.r15n = s.r15n) (hm : t.fcw.sn = s.fcw.sn) : readWord r t = readWord r s := by
  simp only [readWord, hg, h1, h2, h3, h4, hm]

theorem readWord_setFcw (r : Reg) (f : Fcw) (s : State) (h : f.sn = s.fcw.sn) :
    readWord r (setFcw f s) = readWord r s := readWord_congr r rfl rfl rfl rfl rfl h

@[simp] theorem readWord_spend (r : Reg) (n : Nat) (s : State) : readWord r (spend n s) = readWord r s := rfl
@[simp] theorem readWord_jumpTo (r : Reg) (a : Addr) (s : State) : readWord r (jumpTo a s) = readWord r s := rfl
@[simp] theorem readWord_advance (r : Reg) (n : Nat) (s : State) : readWord r (advance n s) = readWord r s := rfl
@[simp] theorem readWord_logIo (r : Reg) (e : IoEvent) (s : State) : readWord r (logIo e s) = readWord r s := rfl
@[simp] theorem readWord_markStale (r : Reg) (g : Guard) (l : List Addr) (s : State) :
    readWord r (markStale g l s) = readWord r s := rfl
@[simp] theorem readWord_ioRead (r : Reg) (sp : Space) (port : Word) (w : Width) (s : State) :
    readWord r (ioRead sp port w s) = readWord r s := rfl
@[simp] theorem readWord_ioWrite (r : Reg) (sp : Space) (port : Word) (w : Width) (v : BitVec w.bits) (s : State) :
    readWord r (ioWrite sp port w v s) = readWord r s := rfl
@[simp] theorem readWord_poke (r : Reg) (w : Width) (a : Addr) (v : BitVec w.bits) (s : State) :
    readWord r (poke w a v s) = readWord r s := by cases w <;> rfl

/-- Reading a word register after writing one. -/
theorem readWord_writeWord (r q : Reg) (v : Word) (s : State) :
    readWord r (writeWord q v s) = if r = q then v else readWord r s := by
  have key : ∀ x : Reg, ¬ x.toNat < 14 → x = 14 ∨ x = 15 := by decide
  by_cases hr : r.toNat < 14 <;> by_cases hq : q.toNat < 14
  · by_cases h : r = q
    · subst h; simp [readWord, writeWord, hr]
    · have hn : q.toNat ≠ r.toNat := fun e => h (BitVec.eq_of_toNat_eq e.symm)
      simp [readWord, writeWord, hr, hq, h, hn]
  · have h : r ≠ q := fun e => hq (e ▸ hr)
    rw [if_neg h]
    rcases key q hq with rfl | rfl <;> cases hs : s.fcw.sn <;> simp [readWord, writeWord, hr, hs]
  · have h : r ≠ q := fun e => hr (e ▸ hq)
    simp [readWord, writeWord, hr, hq, h]
  · rcases key q hq with rfl | rfl <;> rcases key r hr with rfl | rfl <;> cases hs : s.fcw.sn <;>
      simp [readWord, writeWord, hs]

@[simp] theorem readWord_writeWord_same (r : Reg) (v : Word) (s : State) : readWord r (writeWord r v s) = v := by
  simp [readWord_writeWord]

theorem readWord_writeWord_ne {r q : Reg} (h : r ≠ q) (v : Word) (s : State) :
    readWord r (writeWord q v s) = readWord r s := by simp [readWord_writeWord, h]

/-- In system mode the normal bank is not written (10_state.md R24). -/
theorem writeWord_normalBank (r : Reg) (v : Word) (s : State) (h : s.fcw.sn = true) :
    (writeWord r v s).r14n = s.r14n ∧ (writeWord r v s).r15n = s.r15n := by
  unfold writeWord; (repeat' split) <;> simp_all

/-- In normal mode the system bank is not written (10_state.md R24). -/
theorem writeWord_systemBank (r : Reg) (v : Word) (s : State) (h : s.fcw.sn = false) :
    (writeWord r v s).r14s = s.r14s ∧ (writeWord r v s).r15s = s.r15s := by
  unfold writeWord; (repeat' split) <;> simp_all

theorem byteHome_fields (k q : Reg) : byteHome k = byteHome q → k.getLsbD 3 = q.getLsbD 3 → k = q := by
  revert k q; decide

/-- The byte of a word that the field `k` names (10_state.md R22). -/
theorem readByte_eq (k : Reg) (s : State) :
    readByte k s = if k.getLsbD 3 then (readWord (byteHome k) s).extractLsb' 0 8
      else (readWord (byteHome k) s).extractLsb' 8 8 := rfl

theorem readWord_writeByte (r k : Reg) (v : Byte) (s : State) (h : r ≠ byteHome k) :
    readWord r (writeByte k v s) = readWord r s := readWord_writeWord_ne h _ _

/-- Reading a byte register after writing one: the other byte of the word is unchanged (10_state.md R22). -/
theorem readByte_writeByte (k q : Reg) (v : Byte) (s : State) :
    readByte k (writeByte q v s) = if k = q then v else readByte k s := by
  by_cases hh : byteHome k = byteHome q
  · by_cases hb : k.getLsbD 3 = q.getLsbD 3
    · have hk := byteHome_fields k q hh hb
      subst hk
      rw [if_pos rfl, readByte_eq, writeByte]
      cases hc : k.getLsbD 3 <;> simp
    · have hk : k ≠ q := fun e => hb (e ▸ rfl)
      rw [if_neg hk, readByte_eq, readByte_eq, writeByte, hh]
      cases hc : k.getLsbD 3 <;> cases hd : q.getLsbD 3 <;> simp_all
  · have hk : k ≠ q := fun e => hh (e ▸ rfl)
    simp only [readByte, writeByte, hk, readWord_writeWord_ne hh, if_false]

@[simp] theorem readByte_writeByte_same (k : Reg) (v : Byte) (s : State) : readByte k (writeByte k v s) = v := by
  simp [readByte_writeByte]

theorem succ_ne (r : Reg) : r + 1#4 ≠ r := by revert r; decide

theorem ne_succ (r : Reg) : r ≠ r + 1#4 := by revert r; decide

/-- Reading a word register after writing a long one (10_state.md R23). -/
theorem readWord_writeLong (r q : Reg) (v : Long) (s : State) :
    readWord r (writeLong q v s) =
      if r = q + 1#4 then v.extractLsb' 0 16 else if r = q then v.extractLsb' 16 16 else readWord r s := by
  simp only [writeLong, readWord_writeWord]

@[simp] theorem readLong_writeLong_same (r : Reg) (v : Long) (s : State) : readLong r (writeLong r v s) = v := by
  have h' := ne_succ r
  simp only [readLong, readWord_writeLong, h', if_false, if_true]
  exact append_extract (m := 16) (n := 16) v

theorem quad_fields (r : Reg) : r ≠ r + 2#4 ∧ r + 1#4 ≠ r + 2#4 ∧ r ≠ r + 2#4 + 1#4 ∧ r + 1#4 ≠ r + 2#4 + 1#4 := by revert r; decide

/-- Reading a word register after writing a quad one (10_state.md R23). -/
theorem readWord_writeQuad (r q : Reg) (v : Quad) (s : State) (h : r ∉ [q, q + 1#4, q + 2#4, q + 3#4]) :
    readWord r (writeQuad q v s) = readWord r s := by
  have e : ∀ x : Reg, x + 2#4 + 1#4 = x + 3#4 := by decide
  simp only [List.mem_cons, List.not_mem_nil, or_false, not_or] at h
  simp only [writeQuad, readWord_writeLong, e, h, if_false]

@[simp] theorem readQuad_writeQuad_same (r : Reg) (v : Quad) (s : State) : readQuad r (writeQuad r v s) = v := by
  obtain ⟨h1, h2, h3, h4⟩ := quad_fields r
  have e : readLong r (writeLong (r + 2#4) (v.extractLsb' 0 32) (writeLong r (v.extractLsb' 32 32) s)) =
      v.extractLsb' 32 32 := by
    refine Eq.trans ?_ (readLong_writeLong_same r (v.extractLsb' 32 32) s)
    rw [readLong, readLong, readWord_writeLong r (r + 2#4), readWord_writeLong (r + 1#4) (r + 2#4)]
    simp only [h1, h2, h3, h4, if_false]
  rw [readQuad, writeQuad, e, readLong_writeLong_same]
  exact append_extract (m := 32) (n := 32) v

/-- What was written to a register of width W is read back (00_scope.md R8). -/
@[simp] theorem readReg_writeReg_same (w : Width) (r : Reg) (v : BitVec w.bits) (s : State) :
    readReg w r (writeReg w r v s) = v := by
  cases w <;> simp [readReg, writeReg]

/-- A write to a register of width W leaves every word register it is not made of (10_state.md R22, R23). -/
theorem readWord_writeReg (w : Width) (r d : Reg) (v : BitVec w.bits) (s : State) (h : r ∉ homes w d) :
    readWord r (writeReg w d v s) = readWord r s := by
  cases w <;> simp [homes] at h
  · exact readWord_writeByte r d v s h
  · exact readWord_writeWord_ne h v s
  · simp [writeReg, readWord_writeLong, h]

/-- A byte write leaves every other byte register (10_state.md R22). -/
theorem readByte_writeReg (k d : Reg) (v : Byte) (s : State) (h : k ≠ d) :
    readByte k (writeReg .byte d v s) = readByte k s := by
  simp [writeReg, readByte_writeByte, h]

theorem writeReg_normalBank (w : Width) (r : Reg) (v : BitVec w.bits) (s : State) (h : s.fcw.sn = true) :
    (writeReg w r v s).r14n = s.r14n ∧ (writeReg w r v s).r15n = s.r15n := by
  cases w
  · exact writeWord_normalBank _ _ _ h
  · exact writeWord_normalBank _ _ _ h
  · have h1 := writeWord_normalBank r (v.extractLsb' 16 16) s h
    have h2 := writeWord_normalBank (r + 1#4) (v.extractLsb' 0 16) (writeWord r (v.extractLsb' 16 16) s) (by simpa using h)
    exact ⟨h2.1.trans h1.1, h2.2.trans h1.2⟩

theorem writeReg_systemBank (w : Width) (r : Reg) (v : BitVec w.bits) (s : State) (h : s.fcw.sn = false) :
    (writeReg w r v s).r14s = s.r14s ∧ (writeReg w r v s).r15s = s.r15s := by
  cases w
  · exact writeWord_systemBank _ _ _ h
  · exact writeWord_systemBank _ _ _ h
  · have h1 := writeWord_systemBank r (v.extractLsb' 16 16) s h
    have h2 := writeWord_systemBank (r + 1#4) (v.extractLsb' 0 16) (writeWord r (v.extractLsb' 16 16) s) (by simpa using h)
    exact ⟨h2.1.trans h1.1, h2.2.trans h1.2⟩

/-- A stepped pointer: the offset word moves, every other word register stays (20_memory.md R62). -/
theorem readWord_stepPointer (r p : Reg) (k : Word) (s : State) :
    readWord r (stepPointer p k s) = if r = p + 1#4 then readWord r s + k else readWord r s := by
  unfold stepPointer
  rw [readWord_writeWord]
  split
  · next h => rw [h]
  · rfl

/- Updates that leave every register of every width. -/
@[simp] theorem readReg_spend (w : Width) (r : Reg) (n : Nat) (s : State) :
    readReg w r (spend n s) = readReg w r s := by cases w <;> rfl
@[simp] theorem readByte_spend (r : Reg) (n : Nat) (s : State) : readByte r (spend n s) = readByte r s := rfl
@[simp] theorem readReg_jumpTo (w : Width) (r : Reg) (a : Addr) (s : State) :
    readReg w r (jumpTo a s) = readReg w r s := by cases w <;> rfl
@[simp] theorem readByte_jumpTo (r : Reg) (a : Addr) (s : State) : readByte r (jumpTo a s) = readByte r s := rfl
@[simp] theorem readReg_advance (w : Width) (r : Reg) (n : Nat) (s : State) :
    readReg w r (advance n s) = readReg w r s := by cases w <;> rfl
@[simp] theorem readByte_advance (r : Reg) (n : Nat) (s : State) : readByte r (advance n s) = readByte r s := rfl
@[simp] theorem readReg_logIo (w : Width) (r : Reg) (e : IoEvent) (s : State) :
    readReg w r (logIo e s) = readReg w r s := by cases w <;> rfl
@[simp] theorem readByte_logIo (r : Reg) (e : IoEvent) (s : State) : readByte r (logIo e s) = readByte r s := rfl
@[simp] theorem readReg_markStale (w : Width) (r : Reg) (g : Guard) (l : List Addr) (s : State) :
    readReg w r (markStale g l s) = readReg w r s := by cases w <;> rfl
@[simp] theorem readByte_markStale (r : Reg) (g : Guard) (l : List Addr) (s : State) : readByte r (markStale g l s) = readByte r s := rfl
@[simp] theorem readReg_ioRead (w : Width) (r : Reg) (sp : Space) (port : Word) (v : Width) (s : State) :
    readReg w r (ioRead sp port v s) = readReg w r s := by cases w <;> rfl
@[simp] theorem readByte_ioRead (r : Reg) (sp : Space) (port : Word) (v : Width) (s : State) : readByte r (ioRead sp port v s) = readByte r s := rfl
@[simp] theorem readReg_ioWrite (w : Width) (r : Reg) (sp : Space) (port : Word) (v : Width) (x : BitVec v.bits) (s : State) :
    readReg w r (ioWrite sp port v x s) = readReg w r s := by cases w <;> rfl
@[simp] theorem readByte_ioWrite (r : Reg) (sp : Space) (port : Word) (v : Width) (x : BitVec v.bits) (s : State) : readByte r (ioWrite sp port v x s) = readByte r s := rfl
@[simp] theorem readReg_poke (w : Width) (r : Reg) (v : Width) (a : Addr) (x : BitVec v.bits) (s : State) :
    readReg w r (poke v a x s) = readReg w r s := by cases v <;> cases w <;> rfl
@[simp] theorem readByte_poke (r : Reg) (v : Width) (a : Addr) (x : BitVec v.bits) (s : State) :
    readByte r (poke v a x s) = readByte r s := by cases v <;> rfl

theorem readReg_setFcw (w : Width) (r : Reg) (f : Fcw) (s : State) (h : f.sn = s.fcw.sn) :
    readReg w r (setFcw f s) = readReg w r s := by
  cases w <;> simp [readReg, readByte, readLong, readWord_setFcw _ f s h]

theorem readByte_setFcw (r : Reg) (f : Fcw) (s : State) (h : f.sn = s.fcw.sn) :
    readByte r (setFcw f s) = readByte r s := readReg_setFcw .byte r f s h

theorem readQuad_setFcw (r : Reg) (f : Fcw) (s : State) (h : f.sn = s.fcw.sn) :
    readQuad r (setFcw f s) = readQuad r s := by
  simp [readQuad, readLong, readWord_setFcw _ f s h]

@[simp] theorem readLong_spend (r : Reg) (n : Nat) (s : State) : readLong r (spend n s) = readLong r s := rfl
@[simp] theorem readLong_advance (r : Reg) (n : Nat) (s : State) : readLong r (advance n s) = readLong r s := rfl
@[simp] theorem readQuad_spend (r : Reg) (n : Nat) (s : State) : readQuad r (spend n s) = readQuad r s := rfl
@[simp] theorem readQuad_advance (r : Reg) (n : Nat) (s : State) : readQuad r (advance n s) = readQuad r s := rfl

end Sys2Proof.Machine
end

