-- ==== Sys2Proof/Laws/Memory.lean ====
section
/-! SUPPORT. Reading memory after writing it, the canonical form under writes, and what loads and stores do
(20_memory.md R62 to R67). -/

namespace Sys2Proof.Machine

/- The list of cells. -/

theorem read_erase (m : Memory) (a b : Nat) :
    (Memory.erase m a).read b = if b = a then unwritten else m.read b := by
  induction m with
  | nil => simp [Memory.erase, Memory.read]
  | cons e m ih =>
    obtain ⟨k, v⟩ := e
    rw [Memory.erase] at ih ⊢
    by_cases hk : k = a
    · subst hk
      simp only [List.filter, ne_eq, not_true_eq_false, decide_false, ih, Memory.read]
      split <;> simp_all
    · simp only [List.filter, ne_eq, hk, not_false_eq_true, decide_true, ih, Memory.read]
      by_cases hb : b = k
      · subst hb; simp [hk]
      · simp [hb]

theorem read_put (m : Memory) (a b : Nat) (v : Byte) (h : m.read a = unwritten) :
    (Memory.put m a v).read b = if b = a then v else m.read b := by
  induction m with
  | nil =>
    by_cases hv : v = unwritten <;> by_cases hb : b = a <;> simp [Memory.put, Memory.read, hv, hb]
  | cons e m ih =>
    obtain ⟨k, w⟩ := e
    by_cases hk : k < a
    · have ha : a ≠ k := by omega
      have h' : Memory.read m a = unwritten := by simpa [Memory.read, ha] using h
      simp only [Memory.put, hk, if_true, Memory.read, ih h']
      by_cases hb : b = k
      · subst hb; simp [ha.symm]
      · simp [hb]
    · by_cases hv : v = unwritten
      · simp only [Memory.put, hk, if_false, hv, if_true]
        by_cases hb : b = a
        · simp [hb, h]
        · simp [hb]
      · simp only [Memory.put, hk, if_false, hv]
        simp [Memory.read]

/-- Reading one byte after writing one: every other address reads as before. -/
theorem read_write (m : Memory) (a b : Nat) (v : Byte) : (m.write a v).read b = if b = a then v else m.read b := by
  rw [Memory.write, read_put _ _ _ _ (by simp [read_erase]), read_erase]
  split <;> rfl

theorem wfFrom_mono {lo hi : Nat} {m : Memory} (h : Memory.wfFrom hi m = true) (hl : lo ≤ hi) :
    Memory.wfFrom lo m = true := by
  cases m with
  | nil => rfl
  | cons e m =>
    simp only [Memory.wfFrom, Bool.and_eq_true, decide_eq_true_eq] at h ⊢
    exact ⟨⟨⟨by omega, h.1.1.2⟩, h.1.2⟩, h.2⟩

theorem wfFrom_erase {lo : Nat} {m : Memory} (a : Nat) (h : Memory.wfFrom lo m = true) :
    Memory.wfFrom lo (Memory.erase m a) = true := by
  induction m generalizing lo with
  | nil => rfl
  | cons e m ih =>
    obtain ⟨k, w⟩ := e
    simp only [Memory.wfFrom, Bool.and_eq_true, decide_eq_true_eq] at h
    rw [Memory.erase] at ih ⊢
    by_cases hk : k = a
    · simp only [List.filter, ne_eq, hk, not_true_eq_false, decide_false]
      exact wfFrom_mono (ih h.2) (by omega)
    · simp only [List.filter, ne_eq, hk, not_false_eq_true, decide_true, Memory.wfFrom, Bool.and_eq_true,
        decide_eq_true_eq]
      exact ⟨h.1, ih h.2⟩

theorem wfFrom_put {lo a : Nat} {m : Memory} (v : Byte) (h : Memory.wfFrom lo m = true) (hlo : lo ≤ a)
    (ha : a < 2 ^ 23) (hm : ∀ e ∈ m, e.1 ≠ a) : Memory.wfFrom lo (Memory.put m a v) = true := by
  induction m generalizing lo with
  | nil =>
    by_cases hv : v = unwritten <;> simp [Memory.put, Memory.wfFrom, hv, hlo]
    exact ha
  | cons e m ih =>
    obtain ⟨k, w⟩ := e
    have hne : k ≠ a := hm (k, w) (by simp)
    simp only [Memory.wfFrom, Bool.and_eq_true, decide_eq_true_eq] at h
    by_cases hk : k < a
    · simp only [Memory.put, hk, if_true, Memory.wfFrom, Bool.and_eq_true, decide_eq_true_eq]
      exact ⟨h.1, ih h.2 (by omega) fun e he => hm e (by simp [he])⟩
    · by_cases hv : v = unwritten
      · simp only [Memory.put, hk, if_false, hv, if_true, Memory.wfFrom, Bool.and_eq_true, decide_eq_true_eq]
        exact h
      · simp only [Memory.put, hk, if_false, hv, Memory.wfFrom, Bool.and_eq_true, decide_eq_true_eq]
        exact ⟨⟨⟨hlo, ha⟩, hv⟩, ⟨⟨by omega, h.1.1.2⟩, h.1.2⟩, h.2⟩

/-- A write keeps the canonical form. -/
theorem wf_write {m : Memory} {a : Nat} (v : Byte) (h : m.wf = true) (ha : a < 2 ^ 23) :
    (m.write a v).wf = true := by
  refine wfFrom_put v (wfFrom_erase a h) (Nat.zero_le _) ha ?_
  intro e he
  rw [Memory.erase] at he
  simpa using (List.mem_filter.mp he).2

theorem wf_reset : State.reset.mem.wf = true := rfl

/- Addresses. -/

theorem linear_lt (a : Addr) : linear a < 2 ^ 23 := by
  have h1 := a.seg.isLt
  have h2 := a.off.isLt
  unfold linear; omega

/-- Two addresses name the same byte exactly when segment and offset are equal (20_memory.md R63). -/
theorem linear_inj {a b : Addr} (h : linear a = linear b) : a = b := by
  have ha := a.off.isLt
  have hb := b.off.isLt
  unfold linear at h
  have hs : a.seg.toNat = b.seg.toNat := by omega
  have ho : a.off.toNat = b.off.toNat := by omega
  cases a; cases b
  simp only [Addr.mk.injEq]
  exact ⟨BitVec.eq_of_toNat_eq hs, BitVec.eq_of_toNat_eq ho⟩

@[simp] theorem offsetBy_seg (a : Addr) (k : Word) : (offsetBy a k).seg = a.seg := rfl
@[simp] theorem offsetBy_off (a : Addr) (k : Word) : (offsetBy a k).off = a.off + k := rfl

theorem offsetBy_offsetBy (a : Addr) (j k : Word) : offsetBy (offsetBy a j) k = offsetBy a (j + k) := by
  simp [offsetBy, BitVec.add_assoc]

theorem offsetBy_inj {a : Addr} {j k : Word} : offsetBy a j = offsetBy a k ↔ j = k := by
  constructor
  · intro h
    have h' : a.off + j = a.off + k := congrArg Addr.off h
    have h2 := congrArg (fun x => x - a.off) h'
    simp only [BitVec.add_comm a.off] at h2
    simpa using h2
  · rintro rfl; rfl

@[simp] theorem offsetBy_zero (a : Addr) : offsetBy a 0#16 = a := by simp [offsetBy]

theorem offsetBy_ne_self {a : Addr} {k : Word} (h : k ≠ 0#16) : offsetBy a k ≠ a := by
  intro e
  exact h (offsetBy_inj.mp (e.trans (offsetBy_zero a).symm))

/- Bytes of the state. -/

/-- Reading one byte after writing one. -/
theorem byteAt_pokeByte (a c : Addr) (b : Byte) (s : State) :
    byteAt (pokeByte a b s) c = if c = a then b else byteAt s c := by
  simp only [byteAt, pokeByte_mem, read_write]
  by_cases h : c = a
  · simp [h]
  · have hn : linear c ≠ linear a := fun e => h (linear_inj e)
    simp [h, hn]

/-- A write of width W leaves every byte outside its span. -/
theorem byteAt_poke (w : Width) (a c : Addr) (v : BitVec w.bits) (s : State) (h : c ∉ span w a) :
    byteAt (poke w a v s) c = byteAt s c := by
  cases w <;> simp only [span, List.mem_cons, List.not_mem_nil, or_false, not_or] at h <;>
    simp [poke, byteAt_pokeByte, h]

theorem byte_quarters (v : Long) :
    (v.extractLsb' 24 8 ++ v.extractLsb' 16 8 ++ v.extractLsb' 8 8 ++ v.extractLsb' 0 8 : BitVec (8 + 8 + 8 + 8)) = v := by
  apply BitVec.eq_of_getLsbD_eq
  intro i hi
  simp only [BitVec.getLsbD_append, BitVec.getLsbD_extractLsb']
  by_cases h0 : i < 8
  · simp [h0]
  · by_cases h1 : i - 8 < 8
    · simp [h0, h1]; congr 1; omega
    · by_cases h2 : i - 8 - 8 < 8
      · simp [h0, h1, h2]; congr 1; omega
      · have h3 : i - 8 - 8 - 8 < 8 := by omega
        simp [h0, h1, h2, h3]; congr 1; omega

/-- What was written is read back (20_memory.md R64, R65). -/
@[simp] theorem peek_poke_same (w : Width) (a : Addr) (v : BitVec w.bits) (s : State) :
    peek w a (poke w a v s) = v := by
  have h1 : a ≠ offsetBy a 1#16 := fun e => offsetBy_ne_self (by decide) e.symm
  have h2 : a ≠ offsetBy a 2#16 := fun e => offsetBy_ne_self (by decide) e.symm
  have h3 : a ≠ offsetBy a 3#16 := fun e => offsetBy_ne_self (by decide) e.symm
  have h12 : offsetBy a 1#16 ≠ offsetBy a 2#16 := fun e => absurd (offsetBy_inj.mp e) (by decide)
  have h13 : offsetBy a 1#16 ≠ offsetBy a 3#16 := fun e => absurd (offsetBy_inj.mp e) (by decide)
  have h23 : offsetBy a 2#16 ≠ offsetBy a 3#16 := fun e => absurd (offsetBy_inj.mp e) (by decide)
  cases w
  · simp [peek, poke, byteAt_pokeByte]
  · simp only [peek, poke, byteAt_pokeByte, h1, if_false, if_true]
    exact word_join v
  · simp only [peek, poke, byteAt_pokeByte, h1, h2, h3, h12, h13, h23, if_false, if_true]
    exact byte_quarters v

/-- An access reads the bytes of its span only. -/
theorem peek_congr (w : Width) (a : Addr) {s t : State} (h : ∀ c ∈ span w a, byteAt t c = byteAt s c) :
    peek w a t = peek w a s := by
  cases w <;> simp [span] at h <;> simp [peek, h]

theorem mem_wf_poke (w : Width) (a : Addr) (v : BitVec w.bits) (s : State) (h : s.mem.wf = true) :
    (poke w a v s).mem.wf = true := by
  have one : ∀ (u : State) (c : Addr) (b : Byte), u.mem.wf = true → (pokeByte c b u).mem.wf = true :=
    fun u c b hu => wf_write b hu (linear_lt c)
  cases w
  · exact one _ _ _ h
  · exact one _ _ _ (one _ _ _ h)
  · exact one _ _ _ (one _ _ _ (one _ _ _ (one _ _ _ h)))

@[simp] theorem byteAt_setFcw (f : Fcw) (s : State) (a : Addr) : byteAt (setFcw f s) a = byteAt s a := rfl
@[simp] theorem byteAt_spend (n : Nat) (s : State) (a : Addr) : byteAt (spend n s) a = byteAt s a := rfl
@[simp] theorem byteAt_jumpTo (t : Addr) (s : State) (a : Addr) : byteAt (jumpTo t s) a = byteAt s a := rfl
@[simp] theorem byteAt_advance (n : Nat) (s : State) (a : Addr) : byteAt (advance n s) a = byteAt s a := rfl
@[simp] theorem byteAt_markStale (g : Guard) (l : List Addr) (s : State) (a : Addr) :
    byteAt (markStale g l s) a = byteAt s a := rfl
@[simp] theorem byteAt_writeReg (w : Width) (r : Reg) (v : BitVec w.bits) (s : State) (a : Addr) :
    byteAt (writeReg w r v s) a = byteAt s a := by simp [byteAt]
@[simp] theorem byteAt_stepPointer (p : Reg) (k : Word) (s : State) (a : Addr) :
    byteAt (stepPointer p k s) a = byteAt s a := by simp [byteAt]

theorem readable_congr {s t : State} (h : t.map = s.map) (a : Addr) : readable t a = readable s a := by
  simp [readable, h]

theorem writable_congr {s t : State} (h : t.map = s.map) (a : Addr) : writable t a = writable s a := by
  simp [writable, h]

/-- Memory that answers a write answers a read. -/
theorem readable_of_writable {s : State} {a : Addr} (h : writable s a = true) : readable s a = true := by
  simp only [writable, readable, Bool.not_eq_true', List.any_eq_false] at h ⊢
  intro g hg
  have h' := h g hg
  simp_all

/- Loads and stores. -/

/-- Everything a load can do (20_memory.md R64). -/
theorem load_cases (w : Width) (a : Addr) (s : State) :
    (aligned w a = false ∧ load w a s = .refused .misaligned) ∨
    (aligned w a = true ∧ (span w a).all (readable s) = true ∧ load w a s = .next (peek w a s)) ∨
    (aligned w a = true ∧ (span w a).all (readable s) = false ∧ load w a s = .fault .absentRead) := by
  unfold load
  cases aligned w a <;> cases (span w a).all (readable s) <;> simp

/-- A load that answers gives the bytes at its address. -/
theorem load_next {w : Width} {a : Addr} {s : State} {v : BitVec w.bits} (h : load w a s = .next v) :
    aligned w a = true ∧ (span w a).all (readable s) = true ∧ v = peek w a s := by
  rcases load_cases w a s with ⟨_, e⟩ | ⟨h1, h2, e⟩ | ⟨_, _, e⟩ <;> rw [e] at h <;> simp_all

theorem load_ready {w : Width} {a : Addr} {s : State} (h1 : aligned w a = true)
    (h2 : (span w a).all (readable s) = true) : load w a s = .next (peek w a s) := by
  simp [load, h1, h2]

/-- Everything a store can do (20_memory.md R65, R75). -/
theorem store_cases (g : Guard) (w : Width) (a : Addr) (v : BitVec w.bits) (s : State) :
    (aligned w a = false ∧ store g w a v s = .refused .misaligned) ∨
    (aligned w a = true ∧ (span w a).all (writable s) = true ∧
      store g w a v s = .next (markStale g (span w a) (poke w a v s))) ∨
    (aligned w a = true ∧ (span w a).all (writable s) = false ∧ store g w a v s = .fault .absentWrite) := by
  unfold store
  cases aligned w a <;> cases (span w a).all (writable s) <;> simp

/-- A store that answers has written its bytes and marked the next fetch when one was guarded. -/
theorem store_next {g : Guard} {w : Width} {a : Addr} {v : BitVec w.bits} {s t : State} (h : store g w a v s = .next t) :
    aligned w a = true ∧ (span w a).all (writable s) = true ∧ t = markStale g (span w a) (poke w a v s) := by
  rcases store_cases g w a v s with ⟨_, e⟩ | ⟨h1, h2, e⟩ | ⟨_, _, e⟩ <;> rw [e] at h <;> simp_all

theorem store_ready {g : Guard} {w : Width} {a : Addr} (v : BitVec w.bits) {s : State} (h1 : aligned w a = true)
    (h2 : (span w a).all (writable s) = true) :
    store g w a v s = .next (markStale g (span w a) (poke w a v s)) := by
  simp [store, h1, h2]

/- Sequencing. -/

@[simp] theorem andThen_next {α β : Type} (a : α) (f : α → Res β) : Res.andThen (.next a) f = f a := rfl
@[simp] theorem andThen_fault {α β : Type} (e : Fault) (f : α → Res β) : Res.andThen (.fault e) f = .fault e := rfl
@[simp] theorem andThen_refused {α β : Type} (e : Refusal) (f : α → Res β) : Res.andThen (.refused e) f = .refused e := rfl

/-- A sequence that answers has answered at its first part. -/
theorem andThen_eq_next {α β : Type} {m : Res α} {f : α → Res β} {b : β} (h : m.andThen f = .next b) :
    ∃ a, m = .next a ∧ f a = .next b := by
  cases m with
  | next a => exact ⟨a, rfl, h⟩
  | fault e => cases h
  | refused e => cases h

end Sys2Proof.Machine
end

