-- ==== Sys2Proof/Laws/Frames.lean ====
section
/-! SUPPORT. What else stays the same: `OnlyChanges` of each update, and how frames join along a sequence. -/

namespace Sys2Proof

open Machine

/-- A frame that changes nothing. -/
theorem OnlyChanges.refl (g : Guard) (s : State) : OnlyChanges g [] [] [] s s := by
  constructor <;> simp

/-- Frames of two updates one after the other, when the first keeps the mode. -/
theorem OnlyChanges.trans {g : Guard} {rs qs : List Reg} {bs cs : List Addr} {es fs : List IoEvent} {s t u : State}
    (h : OnlyChanges g rs bs es s t) (k : OnlyChanges g qs cs fs t u) (m : t.fcw.sn = s.fcw.sn) :
    OnlyChanges g (rs ++ qs) (bs ++ cs) (es ++ fs) s u where
  words r hr := by
    simp only [List.mem_append, not_or] at hr
    rw [k.words r hr.2, h.words r hr.1]
  normalBank hs := by
    obtain ⟨a, b⟩ := h.normalBank hs
    obtain ⟨c, d⟩ := k.normalBank (m.trans hs)
    exact ⟨c.trans a, d.trans b⟩
  systemBank hs := by
    obtain ⟨a, b⟩ := h.systemBank hs
    obtain ⟨c, d⟩ := k.systemBank (m.trans hs)
    exact ⟨c.trans a, d.trans b⟩
  memory a ha := by
    simp only [List.mem_append, not_or] at ha
    rw [k.memory a ha.2, h.memory a ha.1]
  look := by rw [k.look, h.look, List.any_append, Bool.or_assoc]
  trace := by rw [k.trace, h.trace, List.append_assoc]
  psap := k.psap.trans h.psap
  refresh := k.refresh.trans h.refresh
  halted := k.halted.trans h.halted
  mo := k.mo.trans h.mo
  nmiPending := k.nmiPending.trans h.nmiPending
  requests := by
    obtain ⟨a, b, c, d⟩ := h.requests
    obtain ⟨a', b', c', d'⟩ := k.requests
    exact ⟨a'.trans a, b'.trans b, c'.trans c, d'.trans d⟩
  environment := by
    obtain ⟨a, b, c⟩ := h.environment
    obtain ⟨a', b', c'⟩ := k.environment
    exact ⟨a'.trans a, b'.trans b, c'.trans c⟩

/-- A frame may name more registers than change. -/
theorem OnlyChanges.mono {g : Guard} {rs qs : List Reg} {bs : List Addr} {es : List IoEvent} {s t : State}
    (h : OnlyChanges g rs bs es s t) (m : ∀ r ∈ rs, r ∈ qs) : OnlyChanges g qs bs es s t :=
  { h with words := fun r hr => h.words r fun hm => hr (m r hm) }

/-- With no byte stored, the guard does not matter. -/
theorem OnlyChanges.anyGuard {g k : Guard} {rs : List Reg} {es : List IoEvent} {s t : State}
    (h : OnlyChanges g rs [] es s t) : OnlyChanges k rs [] es s t :=
  { h with look := by simpa using h.look }

theorem frame_setFcw (g : Guard) (f : Fcw) (s : State) (h : f.sn = s.fcw.sn) :
    OnlyChanges g [] [] [] s (setFcw f s) := by
  constructor <;> simp [readWord_setFcw _ _ _ h]

theorem frame_spend (g : Guard) (n : Nat) (s : State) : OnlyChanges g [] [] [] s (spend n s) := by
  constructor <;> simp

theorem frame_jumpTo (g : Guard) (a : Addr) (s : State) : OnlyChanges g [] [] [] s (jumpTo a s) := by
  constructor <;> simp

theorem frame_advance (g : Guard) (n : Nat) (s : State) : OnlyChanges g [] [] [] s (advance n s) := by
  constructor <;> simp

theorem frame_writeReg (g : Guard) (w : Width) (d : Reg) (v : BitVec w.bits) (s : State) :
    OnlyChanges g (homes w d) [] [] s (writeReg w d v s) where
  words r hr := readWord_writeReg w r d v s hr
  normalBank := writeReg_normalBank w d v s
  systemBank := writeReg_systemBank w d v s
  memory a _ := by simp
  look := by simp
  trace := by simp
  psap := by simp
  refresh := by simp
  halted := by simp
  mo := by simp
  nmiPending := by simp
  requests := by simp
  environment := by simp

theorem frame_writeWord (g : Guard) (d : Reg) (v : Word) (s : State) : OnlyChanges g [d] [] [] s (writeWord d v s) :=
  frame_writeReg g .word d v s

theorem frame_writeByte (g : Guard) (d : Reg) (v : Byte) (s : State) :
    OnlyChanges g [byteHome d] [] [] s (writeByte d v s) := frame_writeReg g .byte d v s

theorem frame_writeLong (g : Guard) (d : Reg) (v : Long) (s : State) :
    OnlyChanges g [d, d + 1#4] [] [] s (writeLong d v s) := frame_writeReg g .long d v s

theorem frame_writeQuad (g : Guard) (d : Reg) (v : Quad) (s : State) :
    OnlyChanges g [d, d + 1#4, d + 2#4, d + 3#4] [] [] s (writeQuad d v s) := by
  have e : d + 2#4 + 1#4 = d + 3#4 := by rw [BitVec.add_assoc]; rfl
  have h := (frame_writeLong g d (v.extractLsb' 32 32) s).trans (frame_writeLong g (d + 2#4) (v.extractLsb' 0 32) _)
    (by simp)
  rw [e] at h
  exact h

theorem frame_stepPointer (g : Guard) (p : Reg) (k : Word) (s : State) :
    OnlyChanges g [p + 1#4] [] [] s (stepPointer p k s) := frame_writeWord g (p + 1#4) _ s

/-- A store that answers changes its bytes only, and marks the next fetch when one is guarded. -/
theorem frame_store {g : Guard} {w : Width} {a : Addr} {v : BitVec w.bits} {s t : State} (h : store g w a v s = .next t) :
    OnlyChanges g [] (span w a) [] s t := by
  obtain ⟨_, _, rfl⟩ := store_next h
  constructor
  case memory => intro c hc; simp [byteAt_poke w a c v s hc]
  all_goals simp

theorem frame_ioRead (g : Guard) (sp : Space) (port : Word) (w : Width) (s : State) :
    OnlyChanges g [] [] [.inp sp port w ((portValue sp port w s).setWidth 16)] s (ioRead sp port w s) := by
  constructor <;> simp [ioRead, byteAt]

theorem frame_ioWrite (g : Guard) (sp : Space) (port : Word) (w : Width) (v : BitVec w.bits) (s : State) :
    OnlyChanges g [] [] [.out sp port w (v.setWidth 16)] s (ioWrite sp port w v s) := by
  constructor <;> simp [ioWrite, byteAt]

/-- A write to the place of an operand changes the operand's registers or bytes only. -/
theorem frame_writePlace {g : Guard} {w : Width} {o : Opd} {v : BitVec w.bits} {s u t : State}
    (h : writePlace g w (place o u) v s = .next t) : OnlyChanges g (opdHomes w o) (opdBytes w o u) [] s t := by
  cases o with
  | reg r =>
    cases h
    exact frame_writeReg g w r v s
  | mem m => exact frame_store h

end Sys2Proof
end

