-- ==== Sys2Proof/Laws/Operands.lean ====
section
/-! SUPPORT. Operands that can be accessed: what reading and writing them gives, pointers as two word
registers, and the PC after an instruction. -/

namespace Sys2Proof

open Machine

theorem load_of_canRead {w : Width} {a : Addr} {s : State} (h : canRead w a s = true) :
    load w a s = .next (peek w a s) := by
  simp only [canRead, Bool.and_eq_true] at h
  exact load_ready h.1 h.2

theorem store_of_canWrite {w : Width} {a : Addr} {s : State} (g : Guard) (v : BitVec w.bits)
    (h : canWrite w a s = true) : store g w a v s = .next (markStale g (span w a) (poke w a v s)) := by
  simp only [canWrite, Bool.and_eq_true] at h
  exact store_ready v h.1 h.2

theorem canRead_congr {w : Width} {a : Addr} {s t : State} (h : t.map = s.map) : canRead w a t = canRead w a s := by
  simp [canRead, funext (readable_congr h)]

theorem canWrite_congr {w : Width} {a : Addr} {s t : State} (h : t.map = s.map) : canWrite w a t = canWrite w a s := by
  simp [canWrite, funext (writable_congr h)]

/-- Memory that can be written can be read (20_memory.md R71). -/
theorem canRead_of_canWrite {w : Width} {a : Addr} {s : State} (h : canWrite w a s = true) : canRead w a s = true := by
  simp only [canRead, canWrite, Bool.and_eq_true, List.all_eq_true] at h ⊢
  exact ⟨h.1, fun c hc => readable_of_writable (h.2 c hc)⟩

theorem opdReady_of_opdWritable {w : Width} {o : Opd} {s : State} (h : opdWritable w o s = true) :
    opdReady w o s = true := by
  cases o with
  | reg r => rfl
  | mem m => exact canRead_of_canWrite h

theorem readSrc_ready {w : Width} {src : Src w.bits} {s : State} (h : srcReady w src s = true) :
    readSrc w src s = .next (srcValue w src s) := by
  cases src with
  | imm v => rfl
  | reg r => rfl
  | mem m => exact load_of_canRead h

theorem readPlace_ready {w : Width} {o : Opd} {s : State} (h : opdReady w o s = true) :
    readPlace w (place o s) s = .next (opdValue w o s) := by
  cases o with
  | reg r => rfl
  | mem m => exact load_of_canRead h

/-- A write to an operand that can be written answers, and the operand then holds the value
(30_encoding.md R109). -/
theorem writePlace_ready {w : Width} {o : Opd} {u s : State} (g : Guard) (v : BitVec w.bits)
    (h : opdWritable w o u = true) (hm : s.map = u.map) (hb : w = .byte → ∀ k, readByte k s = readByte k u) :
    ∃ t, writePlace g w (place o u) v s = .next t ∧ HoldsOpd w o v u t ∧ t.fcw = s.fcw ∧ t.pc = s.pc ∧ t.map = s.map := by
  cases o with
  | reg r => exact ⟨_, rfl, ⟨by simp, fun hw k hk => by
      subst hw; exact (readByte_writeReg k r v _ hk).trans (hb rfl k)⟩, by simp, by simp, by simp⟩
  | mem m => exact ⟨_, store_of_canWrite g v (by rw [canWrite_congr hm]; exact h), peek_poke_same _ _ _ _, by simp, by simp, by simp⟩

/-- The address in a pair of word registers: segment in bits 14:8 of Rp, offset in Rp+1 (20_memory.md R61). -/
theorem pointer_eq (p : Reg) (s : State) : pointer p s = ⟨(readWord p s).extractLsb' 8 7, readWord (p + 1#4) s⟩ := by
  have hi : ∀ x y : Word, BitVec.extractLsb' (n := 32) 24 7 (x ++ y) = x.extractLsb' 8 7 := by
    intro x y
    apply BitVec.eq_of_getLsbD_eq
    intro i hi
    simp only [BitVec.getLsbD_extractLsb', BitVec.getLsbD_append]
    rw [if_neg (by omega), show 24 + i - 16 = 8 + i by omega]
  simp only [pointer, addrOf, readLong, Addr.mk.injEq]
  exact ⟨hi _ _, word_lo _ _⟩

/-- The offset of a pointer moves with its second register (20_memory.md R62). -/
theorem pointer_stepPointer (p : Reg) (k : Word) (s : State) : pointer p (stepPointer p k s) = offsetBy (pointer p s) k := by
  simp [pointer_eq, readWord_stepPointer, offsetBy]

/-- An address written as a long word and read back, whatever the reserved bits (20_memory.md R61). -/
theorem addrOf_longOf (a : Addr) (free : Quad) : addrOf (longOf a free) = a := by
  have hi : ∀ (x : BitVec 1) (g : BitVec 7) (y : Byte) (o : Word),
      BitVec.extractLsb' (n := 32) 24 7 ((x ++ g ++ y : Word) ++ o) = g := by
    intro x g y o
    apply BitVec.eq_of_getLsbD_eq
    intro i hi
    have e : ((x ++ g ++ y : Word) ++ o : Long).getLsbD (24 + i) = (x ++ g ++ y : Word).getLsbD (8 + i) := by
      refine (BitVec.getLsbD_append).trans ?_
      rw [if_neg (by omega)]; congr 1; omega
    have e' : (x ++ g ++ y : Word).getLsbD (8 + i) = (x ++ g : Byte).getLsbD i := by
      refine (BitVec.getLsbD_append).trans ?_
      rw [if_neg (by omega)]; congr 1; omega
    have e'' : (x ++ g : Byte).getLsbD i = g.getLsbD i := by
      refine (BitVec.getLsbD_append).trans ?_
      rw [if_pos hi]
    rw [BitVec.getLsbD_extractLsb', e, e', e'']
    simp [hi]
  cases a with
  | mk g o =>
    simp only [addrOf, longOf, segmentWord, Addr.mk.injEq]
    exact ⟨hi _ _ _ _, word_lo _ _⟩

/-- The PC after an instruction of `n` words (10_state.md R27). -/
theorem after_eq {i : Instr} {n : Nat} (h : (encode i).length = n) (s : State) : after i s = nextPc n s := by
  simp [after, Instr.bytes, nextPc, h]

theorem guardOf_eq {i : Instr} {n : Nat} (h : (encode i).length = n) (s : State) : guardOf i s = Guard.after n s := by
  simp [guardOf, Guard.after, Instr.bytes, nextPc, h]

/-- A sequence answers exactly when both parts do. -/
theorem andThen_next_iff {α β : Type} {m : Res α} {f : α → Res β} {b : β} :
    m.andThen f = .next b ↔ ∃ a, m = .next a ∧ f a = .next b := by
  refine ⟨andThen_eq_next, ?_⟩
  rintro ⟨a, rfl, h⟩
  exact h

end Sys2Proof
end

