-- ==== Sys2Proof/Laws/Operations.lean ====
section
/-! SUPPORT. What each shared operation has done when it answers a next state: one lemma per operation. -/

namespace Sys2Proof.Machine

/- Operands (30_encoding.md R109). -/

theorem readSrc_next {w : Width} {src : Src w.bits} {s : State} {v : BitVec w.bits} (h : readSrc w src s = .next v) :
    srcReady w src s = true ∧ v = srcValue w src s := by
  cases src with
  | imm x => cases h; exact ⟨rfl, rfl⟩
  | reg r => cases h; exact ⟨rfl, rfl⟩
  | mem m =>
    obtain ⟨h1, h2, h3⟩ := load_next (h : load w (memAddr m s) s = .next v)
    exact ⟨by simp only [srcReady, canRead, h1, h2, Bool.and_self], h3⟩

theorem readPlace_next {w : Width} {o : Opd} {s : State} {v : BitVec w.bits} (h : readPlace w (place o s) s = .next v) :
    opdReady w o s = true ∧ v = opdValue w o s := by
  cases o with
  | reg r => cases h; exact ⟨rfl, rfl⟩
  | mem m =>
    obtain ⟨h1, h2, h3⟩ := load_next (h : load w (memAddr m s) s = .next v)
    exact ⟨by simp only [opdReady, canRead, h1, h2, Bool.and_self], h3⟩

/-- A write to an operand that answers keeps FCW and the PC. -/
theorem writePlace_next {g : Guard} {w : Width} {p : Place} {v : BitVec w.bits} {s t : State}
    (h : writePlace g w p v s = .next t) : t.fcw = s.fcw ∧ t.pc = s.pc ∧ t.draws = s.draws := by
  cases p with
  | reg r => cases h; simp
  | mem a =>
    obtain ⟨_, _, rfl⟩ := store_next (h : store g w a v s = .next t)
    simp

/- The canonical form of memory. -/

theorem store_wf {g : Guard} {w : Width} {a : Addr} {v : BitVec w.bits} {s t : State} (h : store g w a v s = .next t)
    (hm : s.mem.wf = true) : t.mem.wf = true := by
  obtain ⟨_, _, rfl⟩ := store_next h
  exact mem_wf_poke w a v s hm

theorem writePlace_wf {g : Guard} {w : Width} {p : Place} {v : BitVec w.bits} {s t : State}
    (h : writePlace g w p v s = .next t) (hm : s.mem.wf = true) : t.mem.wf = true := by
  cases p with
  | reg r => cases h; simpa using hm
  | mem a => exact store_wf h hm

theorem storeWords_wf {g : Guard} {n : Nat} {r : Reg} {a : Addr} {s t : State} (h : storeWords g n r a s = .next t)
    (hm : s.mem.wf = true) : t.mem.wf = true := by
  induction n generalizing r a s with
  | zero => cases h; exact hm
  | succ n ih =>
    obtain ⟨u, hu, h⟩ := andThen_eq_next h
    exact ih h (store_wf hu hm)

theorem loadWords_mem {n : Nat} {d : Reg} {a : Addr} {s t : State} (h : loadWords n d a s = .next t) :
    t.mem = s.mem := by
  induction n generalizing d a s with
  | zero => cases h; rfl
  | succ n ih =>
    obtain ⟨v, _, h⟩ := andThen_eq_next h
    simpa using ih h

/- Loads and exchanges (40_load_exchange.md). -/

theorem loadReg_next {w : Width} {d : Reg} {n : Nat} {v : Res (BitVec w.bits)} {s t : State}
    (h : loadReg w d n v s = .next t) : ∃ x, v = .next x ∧ t = advance n (writeReg w d x s) := by
  obtain ⟨x, hx, h⟩ := andThen_eq_next h
  cases h; exact ⟨x, hx, rfl⟩

theorem storeAt_next {w : Width} {n : Nat} {a : Addr} {v : BitVec w.bits} {s t : State} (h : storeAt w n a v s = .next t) :
    ∃ u, store (Guard.after n s) w a v s = .next u ∧ t = advance n u := by
  obtain ⟨u, hu, h⟩ := andThen_eq_next h
  cases h; exact ⟨u, hu, rfl⟩

theorem clearOpd_next {w : Width} {o : Opd} {s t : State} (h : clearOpd w o s = .next t) :
    ∃ u, writePlace (Guard.after (1 + o.words) s) w (place o s) 0#_ s = .next u ∧ t = advance (1 + o.words) u := by
  obtain ⟨u, hu, h⟩ := andThen_eq_next h
  cases h; exact ⟨u, hu, rfl⟩

theorem exchange_next {w : Width} {d : Reg} {o : Opd} {s t : State} (h : exchange w d o s = .next t) :
    opdReady w o s = true ∧ ∃ u, writePlace (Guard.after (1 + o.words) s) w (place o s) (readReg w d s) s = .next u ∧
      t = advance (1 + o.words) (writeReg w d (opdValue w o s) u) := by
  obtain ⟨v, hv, h⟩ := andThen_eq_next h
  obtain ⟨u, hu, h⟩ := andThen_eq_next h
  obtain ⟨hr, rfl⟩ := readPlace_next hv
  cases h; exact ⟨hr, u, hu, rfl⟩

theorem pushValue_next {w : Width} {p : Reg} {n : Nat} {regs : List Reg} {v : Res (BitVec w.bits)} {s t : State}
    (h : pushValue w p n regs v s = .next t) :
    disjoint regs [p, p + 1#4] = true ∧ ∃ x u, v = .next x ∧
      store (Guard.after n s) w (offsetBy (pointer p s) (-(BitVec.ofNat 16 w.bytes))) x
        (stepPointer p (-(BitVec.ofNat 16 w.bytes)) s) = .next u ∧ t = advance n u := by
  unfold pushValue at h
  split at h
  · cases h
  · next hd =>
    obtain ⟨x, hx, h⟩ := andThen_eq_next h
    obtain ⟨u, hu, h⟩ := andThen_eq_next h
    rw [pointer_stepPointer] at hu
    cases h; exact ⟨by simpa using hd, x, u, hx, hu, rfl⟩

theorem popValue_next {w : Width} {o : Opd} {p : Reg} {s t : State} (h : popValue w o p s = .next t) :
    disjoint (opdRegs w o) [p, p + 1#4] = true ∧ canRead w (pointer p s) s = true ∧ ∃ u,
      writePlace (Guard.after (1 + o.words) s) w (place o s) (peek w (pointer p s) s)
        (stepPointer p (BitVec.ofNat 16 w.bytes) s) = .next u ∧ t = advance (1 + o.words) u := by
  unfold popValue at h
  split at h
  · cases h
  · next hd =>
    obtain ⟨x, hx, h⟩ := andThen_eq_next h
    obtain ⟨u, hu, hz⟩ := andThen_eq_next h
    obtain ⟨h1, h2, rfl⟩ := load_next hx
    cases hz
    exact ⟨by simpa using hd, by simp only [canRead, h1, h2, Bool.and_self], u, hu, rfl⟩

theorem loadMultiple_next {d : Reg} {m : Mem} {n1 : BitVec 4} {s t : State} (h : loadMultiple d m n1 s = .next t) :
    disjoint (memRegs m) (regRange d (n1.toNat + 1)) = true ∧
      ∃ u, loadWords (n1.toNat + 1) d (memAddr m s) s = .next u ∧ t = advance (2 + m.words) u := by
  unfold loadMultiple at h
  split at h
  · cases h
  · next hd =>
    obtain ⟨u, hu, h⟩ := andThen_eq_next h
    cases h; exact ⟨by simpa using hd, u, hu, rfl⟩

theorem storeMultiple_next {m : Mem} {r : Reg} {n1 : BitVec 4} {s t : State} (h : storeMultiple m r n1 s = .next t) :
    ∃ u, storeWords (Guard.after (2 + m.words) s) (n1.toNat + 1) r (memAddr m s) s = .next u ∧
      t = advance (2 + m.words) u := by
  obtain ⟨u, hu, h⟩ := andThen_eq_next h
  cases h; exact ⟨u, hu, rfl⟩

/- Arithmetic (41_arithmetic.md). -/

theorem addSub_next {w : Width} {op : BitVec w.bits → BitVec w.bits → Bool → Sum w.bits} {cin dflag : Bool} {d : Reg}
    {n : Nat} {b : Res (BitVec w.bits)} {s t : State} (h : addSub w op cin dflag d n b s = .next t) :
    ∃ x, b = .next x ∧ t = advance n (setFcw (s.fcw.setArith w dflag (op (readReg w d s) x cin))
      (writeReg w d (op (readReg w d s) x cin).r s)) := by
  obtain ⟨x, hx, h⟩ := andThen_eq_next h
  cases h; exact ⟨x, hx, rfl⟩

theorem compare_next {w : Width} {n : Nat} {a b : Res (BitVec w.bits)} {s t : State} (h : compare w n a b s = .next t) :
    ∃ x y, a = .next x ∧ b = .next y ∧ t = advance n (setFcw
      (s.fcw.setCZSV (subW x y false).c (subW x y false).z (subW x y false).s (subW x y false).v) s) := by
  obtain ⟨x, hx, h⟩ := andThen_eq_next h
  obtain ⟨y, hy, h⟩ := andThen_eq_next h
  cases h; exact ⟨x, y, hx, hy, rfl⟩

theorem negate_next {w : Width} {o : Opd} {s t : State} (h : negate w o s = .next t) :
    opdReady w o s = true ∧ ∃ u,
      writePlace (Guard.after (1 + o.words) s) w (place o s) (subW 0#_ (opdValue w o s) false).r s = .next u ∧
      ∃ f : Fcw, f = (let x := subW 0#_ (opdValue w o s) false; s.fcw.setCZSV x.c x.z x.s x.v) ∧
      t = advance (1 + o.words) (setFcw f u) := by
  obtain ⟨v, hv, h⟩ := andThen_eq_next h
  obtain ⟨u, hu, h⟩ := andThen_eq_next h
  obtain ⟨hr, rfl⟩ := readPlace_next hv
  cases h; exact ⟨hr, u, hu, _, rfl, by rw [(writePlace_next hu).1]⟩

theorem countOpd_next {w : Width} {op : BitVec w.bits → BitVec w.bits → Bool → Sum w.bits} {o : Opd} {n1 : BitVec 4}
    {s t : State} (h : countOpd w op o n1 s = .next t) :
    opdReady w o s = true ∧ ∃ x u, x = op (opdValue w o s) (BitVec.ofNat w.bits (n1.toNat + 1)) false ∧
      writePlace (Guard.after (1 + o.words) s) w (place o s) x.r s = .next u ∧
      t = advance (1 + o.words) (setFcw (s.fcw.setCZSV s.fcw.c x.z x.s x.v) u) := by
  obtain ⟨v, hv, h⟩ := andThen_eq_next h
  obtain ⟨u, hu, h⟩ := andThen_eq_next h
  obtain ⟨hr, rfl⟩ := readPlace_next hv
  cases h; exact ⟨hr, _, u, rfl, hu, by rw [(writePlace_next hu).1]⟩

theorem multiplyWord_next {d : Reg} {src : Src 16} {s t : State} (h : multiplyWord d src s = .next t) :
    srcReady .word src s = true ∧ ∃ p : Int, p = (readWord (d + 1#4) s).toInt * BitVec.toInt (srcValue .word src s) ∧
      t = advance (1 + src.words) (setFcw (s.fcw.setProduct 16 p) (writeLong d (BitVec.ofInt 32 p) s)) := by
  obtain ⟨b, hb, h⟩ := andThen_eq_next h
  obtain ⟨hr, rfl⟩ := readSrc_next (w := .word) hb
  cases h; exact ⟨hr, _, rfl, rfl⟩

theorem multiplyLong_next {d : Reg} {src : Src 32} {s t : State} (h : multiplyLong d src s = .next t) :
    srcReady .long src s = true ∧ ∃ p : Int, p = (readLong (d + 2#4) s).toInt * BitVec.toInt (srcValue .long src s) ∧
      t = advance (1 + src.words) (setFcw (s.fcw.setProduct 32 p) (writeQuad d (BitVec.ofInt 64 p) s)) := by
  obtain ⟨b, hb, h⟩ := andThen_eq_next h
  obtain ⟨hr, rfl⟩ := readSrc_next (w := .long) hb
  cases h; exact ⟨hr, _, rfl, rfl⟩

/-- The three outcomes of a signed division (41_arithmetic.md R166). -/
theorem quotient_cases (h : Nat) (n m : Int) :
    (m = 0 ∧ quotient h n m = .byZero) ∨
    (m ≠ 0 ∧ (-(2 ^ (h - 1) : Int) ≤ n.tdiv m ∧ n.tdiv m ≤ 2 ^ (h - 1) - 1) ∧
      quotient h n m = .fits (n.tdiv m) (n - n.tdiv m * m)) ∨
    (m ≠ 0 ∧ ¬ (-(2 ^ (h - 1) : Int) ≤ n.tdiv m ∧ n.tdiv m ≤ 2 ^ (h - 1) - 1) ∧ quotient h n m = .overflow) := by
  unfold quotient
  by_cases h0 : m = 0
  · exact .inl ⟨h0, by simp [h0]⟩
  · by_cases h1 : -(2 ^ (h - 1) : Int) ≤ n.tdiv m ∧ n.tdiv m ≤ 2 ^ (h - 1) - 1
    · exact .inr (.inl ⟨h0, h1, by simp only [h0, h1, if_false]; simp⟩)
    · exact .inr (.inr ⟨h0, h1, by simp only [h0, h1, if_false]⟩)

/- Logical and bit instructions (42_logical_bit.md). -/

theorem logical_next {w : Width} {op : BitVec w.bits → BitVec w.bits → BitVec w.bits} {d : Reg} {src : Src w.bits}
    {s t : State} (h : logical w op d src s = .next t) :
    srcReady w src s = true ∧ ∃ r, r = op (readReg w d s) (srcValue w src s) ∧
      t = advance (1 + src.words) (setFcw (s.fcw.setLogic w r) (writeReg w d r s)) := by
  obtain ⟨b, hb, h⟩ := andThen_eq_next h
  obtain ⟨hr, rfl⟩ := readSrc_next hb
  cases h; exact ⟨hr, _, rfl, rfl⟩

theorem complement_next {w : Width} {o : Opd} {s t : State} (h : complement w o s = .next t) :
    opdReady w o s = true ∧ ∃ u,
      writePlace (Guard.after (1 + o.words) s) w (place o s) (~~~(opdValue w o s)) s = .next u ∧
      t = advance (1 + o.words) (setFcw (s.fcw.setLogic w (~~~(opdValue w o s))) u) := by
  obtain ⟨v, hv, h⟩ := andThen_eq_next h
  obtain ⟨u, hu, h⟩ := andThen_eq_next h
  obtain ⟨hr, rfl⟩ := readPlace_next hv
  cases h; exact ⟨hr, u, hu, by rw [(writePlace_next hu).1]⟩

theorem testOpd_next {w : Width} {o : Opd} {s t : State} (h : testOpd w o s = .next t) :
    opdReady w o s = true ∧ t = advance (1 + o.words) (spend 1 (setFcw (testFlags w (opdValue w o s) s) s)) := by
  obtain ⟨v, hv, h⟩ := andThen_eq_next h
  obtain ⟨hr, rfl⟩ := readPlace_next (hv : readPlace w (place o s) s = .next v)
  cases h; exact ⟨hr, rfl⟩

theorem testBit_next {w : Width} {n b : Nat} {o : Opd} {s t : State} (h : testBit w n (place o s) b s = .next t) :
    opdReady w o s = true ∧ t = advance n (setFcw (s.fcw.setZ (!(opdValue w o s).getLsbD b)) s) := by
  obtain ⟨v, hv, h⟩ := andThen_eq_next h
  obtain ⟨hr, rfl⟩ := readPlace_next hv
  cases h; exact ⟨hr, rfl⟩

theorem changeBit_next {w : Width} {n : Nat} {o : Opd} {change : BitVec w.bits → BitVec w.bits} {s t : State}
    (h : changeBit w n (place o s) change s = .next t) :
    opdReady w o s = true ∧ ∃ u, writePlace (Guard.after n s) w (place o s) (change (opdValue w o s)) s = .next u ∧
      t = advance n u := by
  obtain ⟨v, hv, h⟩ := andThen_eq_next h
  obtain ⟨u, hu, hz⟩ := andThen_eq_next h
  obtain ⟨hr, rfl⟩ := readPlace_next hv
  cases hz; exact ⟨hr, u, hu, rfl⟩

theorem testAndSet_next {w : Width} {o : Opd} {s t : State} (h : testAndSet w o s = .next t) :
    opdReady w o s = true ∧ ∃ u,
      writePlace (Guard.after (1 + o.words) s) w (place o s) (BitVec.allOnes w.bits) s = .next u ∧
      t = advance (1 + o.words) (setFcw { s.fcw with s := (opdValue w o s).msb } u) := by
  obtain ⟨v, hv, h⟩ := andThen_eq_next h
  obtain ⟨u, hu, h⟩ := andThen_eq_next h
  obtain ⟨hr, rfl⟩ := readPlace_next hv
  cases h; exact ⟨hr, u, hu, by rw [(writePlace_next hu).1]⟩

/- Program control (44_program_control.md). -/

theorem callTo_next {n : Nat} {target : Addr} {s t : State} (h : callTo n target s = .next t) :
    ∃ u, store (Guard.after n s) .long (offsetBy (pointer 14#4 s) (-4#16)) (longOf (nextPc n s) (draw 0 s))
      (stepPointer 14#4 (-4#16) s) = .next u ∧ t = jumpTo target (spend 1 u) := by
  obtain ⟨u, hu, h⟩ := andThen_eq_next h
  rw [pointer_stepPointer] at hu
  cases h; exact ⟨u, hu, rfl⟩

theorem popReturn_next {s t : State} (h : popReturn s = .next t) :
    canRead .long (pointer 14#4 s) s = true ∧
      t = jumpTo (addrOf (peek .long (pointer 14#4 s) s)) (stepPointer 14#4 4#16 s) := by
  obtain ⟨v, hv, h⟩ := andThen_eq_next h
  obtain ⟨h1, h2, rfl⟩ := load_next hv
  cases h; exact ⟨by simp only [canRead, h1, h2, Bool.and_self], rfl⟩

/- Program status, traps and interrupts (60_exceptions.md R332, R344, 70_reset_and_hazards.md R370). -/

/-- Both outcomes of a whole-FCW write (10_state.md R34). -/
theorem writeFcw_cases (v : Word) (s : State) :
    (v.getLsbD 15 = true ∧ writeFcw v s = .next (setFcw (Fcw.ofWord v) s)) ∨
    (v.getLsbD 15 = false ∧ writeFcw v s = .refused .segZero) := by
  unfold writeFcw
  cases v.getLsbD 15 <;> simp

theorem writeFcw_next {v : Word} {s t : State} (h : writeFcw v s = .next t) :
    v.getLsbD 15 = true ∧ t = setFcw (Fcw.ofWord v) s := by
  rcases writeFcw_cases v s with ⟨h1, e⟩ | ⟨_, e⟩ <;> rw [e] at h <;> cases h
  exact ⟨h1, rfl⟩

theorem loadStatus_next {fcwAt pcAt : Addr} {s t : State} (h : loadStatus fcwAt pcAt s = .next t) :
    canRead .word fcwAt s = true ∧ canRead .long pcAt s = true ∧ (peek .word fcwAt s).getLsbD 15 = true ∧
      t = jumpTo (addrOf (peek .long pcAt s)) (setFcw (Fcw.ofWord (peek .word fcwAt s)) s) := by
  obtain ⟨f, hf, h⟩ := andThen_eq_next h
  obtain ⟨u, hu, h⟩ := andThen_eq_next h
  obtain ⟨p, hp, h⟩ := andThen_eq_next h
  obtain ⟨h1, h2, rfl⟩ := load_next hf
  obtain ⟨h3, rfl⟩ := writeFcw_next hu
  obtain ⟨h4, h5, rfl⟩ := load_next hp
  cases h
  exact ⟨by simp only [canRead, h1, h2, Bool.and_self],
    by rw [← canRead_congr (t := setFcw (Fcw.ofWord (peek .word fcwAt s)) s) (setFcw_map _ _), canRead, h4, h5]; rfl,
    h3, rfl⟩

/-- A frame that is pushed: four stores, lowest address last, on the system stack (60_exceptions.md R330). -/
theorem pushFrame_next {g : Guard} {id : Word} {spc : Addr} {s t : State} (h : pushFrame g id spc s = .next t) :
    ∃ b a1 a2 a3, b = stepPointer 14#4 (-8#16) (setFcw { s.fcw with sn := true } (spend 2 s)) ∧
      store g .word (offsetBy (pointer 14#4 b) 6#16) spc.off b = .next a1 ∧
      store g .word (offsetBy (pointer 14#4 b) 4#16) (segmentWord spc.seg (draw 1 s)) a1 = .next a2 ∧
      store g .word (offsetBy (pointer 14#4 b) 2#16) (s.fcw.toWord (reservedBits (draw 0 s))) a2 = .next a3 ∧
      store g .word (pointer 14#4 b) id a3 = .next t := by
  obtain ⟨a1, h1, h⟩ := andThen_eq_next h
  obtain ⟨a2, h2, h⟩ := andThen_eq_next h
  obtain ⟨a3, h3, h⟩ := andThen_eq_next h
  exact ⟨_, a1, a2, a3, rfl, h1, h2, h3, h⟩

/-- A frame that is pushed keeps memory canonical. -/
theorem pushFrame_wf {g : Guard} {id : Word} {spc : Addr} {s t : State} (h : pushFrame g id spc s = .next t)
    (hm : s.mem.wf = true) : t.mem.wf = true := by
  obtain ⟨b, a1, a2, a3, rfl, h1, h2, h3, h4⟩ := pushFrame_next h
  exact store_wf h4 (store_wf h3 (store_wf h2 (store_wf h1 (by simpa using hm))))

/-- An entry that answers: aligned PSAP, the frame, an even vector, the new program status (60_exceptions.md R332). -/
theorem enter_next {g : Guard} {e : Event} {id : Word} {spc : Addr} {s t : State} (h : enter g e id spc s = .next t) :
    s.psap.off.extractLsb' 0 8 = 0#8 ∧ ¬ (e = .vectored ∧ id.getLsbD 0 = true) ∧ ∃ u v,
      pushFrame g id spc s = .next u ∧
      loadStatus (offsetBy u.psap (e.offset + 2#16)) (offsetBy u.psap (e.pcOffset id)) u = .next v ∧
      t = acknowledge e v := by
  unfold enter at h
  split at h
  · cases h
  · next hp =>
    obtain ⟨u, hu, h⟩ := andThen_eq_next h
    split at h
    · cases h
    · next hv =>
      obtain ⟨v, hv', h⟩ := andThen_eq_next h
      cases h
      exact ⟨by simpa using hp, hv, u, v, hu, hv', rfl⟩

theorem returnFromTrap_next {s t : State} (h : returnFromTrap s = .next t) :
    ∃ a, a = pointer 14#4 s ∧ canRead .word a s = true ∧ canRead .word (offsetBy a 2#16) s = true ∧
      canRead .long (offsetBy a 4#16) s = true ∧ (peek .word (offsetBy a 2#16) s).getLsbD 15 = true ∧
      t = jumpTo (addrOf (peek .long (offsetBy a 4#16) s))
        (setFcw (Fcw.ofWord (peek .word (offsetBy a 2#16) s)) (stepPointer 14#4 8#16 s)) := by
  obtain ⟨i, hi, h⟩ := andThen_eq_next h
  obtain ⟨f, hf, h⟩ := andThen_eq_next h
  obtain ⟨p, hp, h⟩ := andThen_eq_next h
  obtain ⟨u, hu, h⟩ := andThen_eq_next h
  obtain ⟨h1, h2, _⟩ := load_next hi
  obtain ⟨h3, h4, rfl⟩ := load_next hf
  obtain ⟨h5, h6, rfl⟩ := load_next hp
  obtain ⟨h7, rfl⟩ := writeFcw_next hu
  cases h
  exact ⟨_, rfl, by simp only [canRead, h1, h2, Bool.and_self], by simp only [canRead, h3, h4, Bool.and_self],
    by simp only [canRead, h5, h6, Bool.and_self], h7, rfl⟩

theorem loadProgramStatus_next {a : Addr} {s t : State} (h : loadProgramStatus a s = .next t) :
    canRead .word a s = true ∧ canRead .word (offsetBy a 2#16) s = true ∧ canRead .long (offsetBy a 4#16) s = true ∧
      (peek .word (offsetBy a 2#16) s).getLsbD 15 = true ∧
      t = jumpTo (addrOf (peek .long (offsetBy a 4#16) s)) (setFcw (Fcw.ofWord (peek .word (offsetBy a 2#16) s)) s) := by
  obtain ⟨i, hi, h⟩ := andThen_eq_next h
  obtain ⟨f, hf, h⟩ := andThen_eq_next h
  obtain ⟨p, hp, h⟩ := andThen_eq_next h
  obtain ⟨u, hu, h⟩ := andThen_eq_next h
  obtain ⟨h1, h2, _⟩ := load_next hi
  obtain ⟨h3, h4, rfl⟩ := load_next hf
  obtain ⟨h5, h6, rfl⟩ := load_next hp
  obtain ⟨h7, rfl⟩ := writeFcw_next hu
  cases h
  exact ⟨by simp only [canRead, h1, h2, Bool.and_self], by simp only [canRead, h3, h4, Bool.and_self],
    by simp only [canRead, h5, h6, Bool.and_self], h7, rfl⟩

/-- A reset that answers: FCW with SEG = 1 and the PC from segment 0; memory, map and trace as before. -/
theorem performReset_next {s t : State} (h : performReset s = .next t) :
    (peek .word ⟨0, 2⟩ s).getLsbD 15 = true ∧ t.fcw = Fcw.ofWord (peek .word ⟨0, 2⟩ s) ∧
      t.pc = ⟨(peek .word ⟨0, 4⟩ s).extractLsb' 8 7, peek .word ⟨0, 6⟩ s⟩ ∧ t.mem = s.mem ∧ t.map = s.map ∧
      t.trace = s.trace ∧ t.resetReq = false := by
  obtain ⟨f, hf, h⟩ := andThen_eq_next h
  obtain ⟨a, ha, h⟩ := andThen_eq_next h
  obtain ⟨o, ho, h⟩ := andThen_eq_next h
  obtain ⟨u, hu, h⟩ := andThen_eq_next h
  obtain ⟨_, _, rfl⟩ := load_next hf
  obtain ⟨_, _, rfl⟩ := load_next ha
  obtain ⟨_, _, rfl⟩ := load_next ho
  obtain ⟨h1, rfl⟩ := writeFcw_next hu
  cases h
  exact ⟨h1, rfl, rfl, rfl, rfl, rfl, rfl⟩

/-- Both cases of a privileged instruction (47_cpu_control.md R290). -/
theorem privileged_cases (i : Instr) (s : State) (body : Res State) :
    (s.fcw.sn = true ∧ privileged i s body = body) ∨
    (s.fcw.sn = false ∧ privileged i s body = privilegedTrap i s) := by
  unfold privileged
  cases s.fcw.sn <;> simp

theorem writeControl_next {c : Ctl} {v : Word} {s t : State} (h : writeControl c v s = .next t) :
    t.mem = s.mem ∧ t.pc = s.pc ∧ (c ≠ .fcw → t.fcw = s.fcw) ∧
      (c = .fcw → v.getLsbD 15 = true ∧ t = setFcw (Fcw.ofWord v) s) := by
  cases c
  case fcw =>
    obtain ⟨h1, rfl⟩ := writeFcw_next h
    simp [h1]
  all_goals cases h; simp

/- Block instructions (45_block_string.md R235, 46_input_output.md R266). -/

theorem compareBlock_next {w : Width} {up rep : Bool} {d p r : Reg} {cc : CC} {s t : State}
    (h : compareBlock w up rep d p r cc s = .next t) :
    pairwiseDisjoint [[p, p + 1#4], [r], homes w d] = true ∧ canRead w (pointer p s) s = true ∧
      ∃ x hit, x = subW (readReg w d s) (peek w (pointer p s) s) false ∧ hit = condOn cc x.c x.z x.s x.v ∧
      t = endIteration rep (hit || countEnds r s) (spend 2 (setFcw (compareFlags hit (countEnds r s) s)
        (countDown r (stepPointer p (blockStep w up) s)))) := by
  unfold compareBlock at h
  split at h
  · cases h
  · next hd =>
    obtain ⟨m, hm, h⟩ := andThen_eq_next h
    obtain ⟨h1, h2, rfl⟩ := load_next hm
    cases h
    exact ⟨by simpa using hd, by simp only [canRead, h1, h2, Bool.and_self], _, _, rfl, rfl, rfl⟩

theorem compareStrings_next {w : Width} {up rep : Bool} {d p r : Reg} {cc : CC} {s t : State}
    (h : compareStrings w up rep d p r cc s = .next t) :
    pairwiseDisjoint [[d, d + 1#4], [p, p + 1#4], [r]] = true ∧ canRead w (pointer d s) s = true ∧
      canRead w (pointer p s) s = true ∧
      ∃ x hit, x = subW (peek w (pointer d s) s) (peek w (pointer p s) s) false ∧ hit = condOn cc x.c x.z x.s x.v ∧
      t = endIteration rep (hit || countEnds r s) (spend 2 (setFcw (compareFlags hit (countEnds r s) s)
        (countDown r (stepPointer p (blockStep w up) (stepPointer d (blockStep w up) s))))) := by
  unfold compareStrings at h
  split at h
  · cases h
  · next hd =>
    obtain ⟨a, ha, h⟩ := andThen_eq_next h
    obtain ⟨m, hm, h⟩ := andThen_eq_next h
    obtain ⟨h1, h2, rfl⟩ := load_next ha
    obtain ⟨h3, h4, rfl⟩ := load_next hm
    cases h
    exact ⟨by simpa using hd, by simp only [canRead, h1, h2, Bool.and_self],
      by simp only [canRead, h3, h4, Bool.and_self], _, _, rfl, rfl, rfl⟩

theorem moveBlock_next {w : Width} {up rep : Bool} {d p r : Reg} {s t : State} (h : moveBlock w up rep d p r s = .next t) :
    pairwiseDisjoint [[d, d + 1#4], [p, p + 1#4], [r]] = true ∧ canRead w (pointer p s) s = true ∧
      ∃ u, store (blockGuard rep s) w (pointer d s) (peek w (pointer p s) s) s = .next u ∧
      t = endIteration rep (countEnds r s) (spend 1 (setFcw ((s.fcw.setZ (drawBit 0 s)).setPV (countEnds r s))
        (countDown r (stepPointer p (blockStep w up) (stepPointer d (blockStep w up) u))))) := by
  unfold moveBlock at h
  split at h
  · cases h
  · next hd =>
    obtain ⟨v, hv, h⟩ := andThen_eq_next h
    obtain ⟨u, hu, hz⟩ := andThen_eq_next h
    obtain ⟨h1, h2, rfl⟩ := load_next hv
    cases hz
    exact ⟨by simpa using hd, by simp only [canRead, h1, h2, Bool.and_self], u, hu, rfl⟩

theorem translate_next {up rep : Bool} {d p r : Reg} {s t : State} (h : translate up rep d p r s = .next t) :
    pairwiseDisjoint [[d, d + 1#4], [p, p + 1#4], [r], [1#4]] = true ∧
      ∃ b v u, load .byte (pointer d s) s = .next b ∧
      load .byte (offsetBy (pointer p s) (BitVec.setWidth 16 b)) s = .next v ∧
      store (blockGuard rep s) .byte (pointer d s) v s = .next u ∧
      t = endIteration rep (countEnds r s) (spend 2 (setFcw ((s.fcw.setZ (drawBit 0 s)).setPV (countEnds r s))
        (writeByte 1#4 ((draw 1 s).extractLsb' 0 8) (countDown r (stepPointer d (blockStep .byte up) u))))) := by
  unfold translate at h
  split at h
  · cases h
  · next hd =>
    obtain ⟨b, hb, h⟩ := andThen_eq_next h
    obtain ⟨v, hv, h⟩ := andThen_eq_next h
    obtain ⟨u, hu, h⟩ := andThen_eq_next h
    cases h
    exact ⟨by simpa using hd, b, v, u, hb, hv, hu, rfl⟩

theorem translateTest_next {up rep : Bool} {d p r : Reg} {s t : State} (h : translateTest up rep d p r s = .next t) :
    pairwiseDisjoint [[d, d + 1#4], [p, p + 1#4], [r], [1#4]] = true ∧
      ∃ b v, load .byte (pointer d s) s = .next b ∧
      load .byte (offsetBy (pointer p s) (BitVec.setWidth 16 b)) s = .next v ∧
      t = endIteration rep (!decide (v = 0#8) || countEnds r s)
        (setFcw ((s.fcw.setZ (decide (v = 0#8))).setPV (countEnds r s))
          (countDown r (stepPointer d (blockStep .byte up) (writeByte 1#4 v s)))) := by
  unfold translateTest at h
  split at h
  · cases h
  · next hd =>
    obtain ⟨b, hb, h⟩ := andThen_eq_next h
    obtain ⟨v, hv, h⟩ := andThen_eq_next h
    cases h
    exact ⟨by simpa using hd, b, v, hb, hv, rfl⟩

theorem inputBlock_next {w : Width} {sp : Space} {up rep : Bool} {d p r : Reg} {s t : State}
    (h : inputBlock w sp up rep d p r s = .next t) :
    pairwiseDisjoint [[d, d + 1#4], [p], [r]] = true ∧ ∃ u,
      store (blockGuard rep s) w (pointer d s) (portValue sp (readWord p s) w s) (ioRead sp (readWord p s) w s) = .next u ∧
      t = endIteration rep (countEnds r s) (spend 1 (setFcw ((s.fcw.setZ (drawBit 0 s)).setPV (countEnds r s))
        (countDown r (stepPointer d (blockStep w up) u)))) := by
  unfold inputBlock at h
  split at h
  · cases h
  · next hd =>
    obtain ⟨u, hu, h⟩ := andThen_eq_next h
    cases h
    exact ⟨by simpa using hd, u, hu, rfl⟩

theorem outputBlock_next {w : Width} {sp : Space} {up rep : Bool} {d p r : Reg} {s t : State}
    (h : outputBlock w sp up rep d p r s = .next t) :
    pairwiseDisjoint [[d], [p, p + 1#4], [r]] = true ∧ canRead w (pointer p s) s = true ∧
      t = endIteration rep (countEnds r s) (spend 1 (setFcw ((s.fcw.setZ (drawBit 0 s)).setPV (countEnds r s))
        (countDown r (stepPointer p (blockStep w up)
          (ioWrite sp (readWord d s) w (peek w (pointer p s) s) s))))) := by
  unfold outputBlock at h
  split at h
  · cases h
  · next hd =>
    obtain ⟨v, hv, h⟩ := andThen_eq_next h
    obtain ⟨h1, h2, rfl⟩ := load_next hv
    cases h
    exact ⟨by simpa using hd, by simp only [canRead, h1, h2, Bool.and_self], rfl⟩

/- The boundary (60_exceptions.md R320). -/

/-- Everything a step can do at a boundary. -/
theorem step_cases (s : State) :
    ((sample s).resetReq = true ∧ step s = performReset (sample s)) ∨
    ((sample s).resetReq = false ∧ (sample s).fcw.seg = false ∧ step s = .refused .segZero) ∨
    ((sample s).resetReq = false ∧ (sample s).fcw.seg = true ∧
      ∃ e, pendingEvent (sample s) = some e ∧ step s = takeEvent e (sample s)) ∨
    ((sample s).resetReq = false ∧ (sample s).fcw.seg = true ∧ pendingEvent (sample s) = none ∧
      (sample s).halted = true ∧ step s = .next (sample s)) ∨
    ((sample s).resetReq = false ∧ (sample s).fcw.seg = true ∧ pendingEvent (sample s) = none ∧
      (sample s).halted = false ∧ step s = (fetch (sample s)).andThen fun i => exec i (sample s)) := by
  have h : step s = if (sample s).resetReq then performReset (sample s)
      else if (sample s).fcw.seg = false then .refused .segZero
      else match pendingEvent (sample s) with
        | some e => takeEvent e (sample s)
        | none => if (sample s).halted then .next (sample s) else (fetch (sample s)).andThen fun i => exec i (sample s) := rfl
  rw [h]
  generalize sample s = u
  cases u.resetReq <;> cases u.fcw.seg <;> cases pendingEvent u <;> cases u.halted <;> simp

/-- With the oracle used up a boundary that acknowledges nothing is as before (60_exceptions.md R320). -/
theorem sample_quiet {s : State} (hi : s.inputs = []) (hp : pendingEvent s = none) : sample s = s := by
  simp [sample, sampleSilent, hi, hp]

/-- With the oracle used up each acknowledge reads a fresh free word (60_exceptions.md R347). -/
theorem sample_acknowledge {s : State} {e : Event} (hi : s.inputs = []) (hr : s.resetReq = false)
    (hp : pendingEvent s = some e) :
    sample s = { s with ident := (Config.draw s.draws).extractLsb' 0 16, draws := s.draws + 1 } := by
  simp [sample, sampleSilent, hi, hr, hp, spend, draw]

/-- The sampling of the pins leaves everything but the requests and the oracle. -/
theorem sample_fields (s : State) : (sample s).gpr = s.gpr ∧ (sample s).r14s = s.r14s ∧ (sample s).r15s = s.r15s ∧
    (sample s).r14n = s.r14n ∧ (sample s).r15n = s.r15n ∧ (sample s).pc = s.pc ∧ (sample s).fcw = s.fcw ∧
    (sample s).psap = s.psap ∧ (sample s).mem = s.mem ∧ (sample s).map = s.map ∧ (sample s).halted = s.halted ∧
    (sample s).mo = s.mo ∧ (sample s).stale = s.stale ∧ (sample s).trace = s.trace := by
  unfold sample sampleSilent
  split
  · split <;> simp
  · simp

/-- A fetch that answers has read an instruction at an even PC with no store outstanding (30_encoding.md R133). -/
theorem fetch_next {s : State} {i : Instr} (h : fetch s = .next i) :
    s.stale = false ∧ s.pc.off.getLsbD 0 = false ∧ ∃ rest, decodeWords (fetchWords 4 s.pc s) = .ok (i, rest) := by
  unfold fetch at h
  cases hs : s.stale
  · cases hp : s.pc.off.getLsbD 0
    · rw [hs, hp] at h
      refine ⟨rfl, rfl, ?_⟩
      simp only [Bool.false_eq_true, if_false] at h
      cases hd : decodeWords (fetchWords 4 s.pc s) with
      | ok x => rw [hd] at h; cases h; exact ⟨x.2, rfl⟩
      | error e => rw [hd] at h; cases e <;> cases h
    · rw [hs, hp] at h; cases h
  · rw [hs] at h; cases h

end Sys2Proof.Machine
end

