-- ==== Sys2Proof/Laws/PerInstr.lean ====
section
/-! SUPPORT. What holds of every instruction as syntax, one lemma per constructor. -/

namespace Sys2Proof

/-- An encoding has one to four words (30_encoding.md R93). -/
def Laws.EncodingLength.Statement (i : Instr) : Prop := 1 ≤ (encode i).length ∧ (encode i).length ≤ 4

namespace Laws.EncodingLength

theorem of_le {i : Instr} (h : (encode i).length ≤ 4) : Statement i := by
  obtain ⟨ws, e⟩ := encode_firstWord i
  exact ⟨by simp [e], h⟩

/-- An instruction of one word. -/
theorem of_one {i : Instr} (h : (encode i).length = 1) : Statement i := of_le (by omega)

/-- An instruction of two words. -/
theorem of_two {i : Instr} (h : (encode i).length = 2) : Statement i := of_le (by omega)

/-- A source operand takes at most two words after the first (30_encoding.md R93). -/
theorem of_src {i : Instr} (w : Width) (op : BitVec 6) (d : Reg) (src : Src w.bits)
    (h : encode i = encodeTwo w op d src) : Statement i := by
  have := src.words_le
  refine of_le ?_
  rw [h, encodeTwo_length]; omega

/-- A register or memory operand takes at most two words after the first (30_encoding.md R93). -/
theorem of_opd {i : Instr} (o : Opd) (h : (encode i).length = 1 + o.words) : Statement i := by
  have := o.words_le
  exact of_le (by omega)

/-- A memory operand takes at most two words after the first (30_encoding.md R93). -/
theorem of_mem {i : Instr} (m : Mem) (h : (encode i).length = 1 + m.words) : Statement i := by
  have := m.words_le
  exact of_le (by omega)

/-- A memory operand and one more word: an immediate (30_encoding.md R93, R95). -/
theorem of_memImm {i : Instr} (op : BitVec 6) (m : Mem) (k : BitVec 4) (v : Word)
    (h : encode i = encodeMem op m k ++ [v]) : Statement i := by
  have := m.words_le
  refine of_le ?_
  rw [h, List.length_append, encodeMem_length]
  simp; omega

/-- A second operation word and a memory operand (30_encoding.md R93, R113). -/
theorem of_multiple {i : Instr} (k : BitVec 4) (m : Mem) (r n1 : BitVec 4)
    (h : encode i = encodeMultiple k m r n1) : Statement i := by
  have := m.words_le
  refine of_le ?_
  rw [h, encodeMultiple_length]; omega

/-- A DA or X operand takes at most two words after the first (30_encoding.md R93). -/
theorem of_direct {i : Instr} (w : Word) (d : Direct) (h : encode i = w :: d.encode) : Statement i := by
  have := d.words_bounds
  refine of_le ?_
  rw [h, List.length_cons, Direct.encode_length]; omega

theorem addb (d : Reg) (src : Src 8) : Statement (.addb d src) :=
  of_src .byte 0x00 d src rfl
theorem add (d : Reg) (src : Src 16) : Statement (.add d src) :=
  of_src .word 0x01 d src rfl
theorem addl (d : Reg) (src : Src 32) : Statement (.addl d src) :=
  of_src .long 0x16 d src rfl
theorem subb (d : Reg) (src : Src 8) : Statement (.subb d src) :=
  of_src .byte 0x02 d src rfl
theorem sub (d : Reg) (src : Src 16) : Statement (.sub d src) :=
  of_src .word 0x03 d src rfl
theorem subl (d : Reg) (src : Src 32) : Statement (.subl d src) :=
  of_src .long 0x12 d src rfl
theorem orb (d : Reg) (src : Src 8) : Statement (.orb d src) :=
  of_src .byte 0x04 d src rfl
theorem or (d : Reg) (src : Src 16) : Statement (.or d src) :=
  of_src .word 0x05 d src rfl
theorem andb (d : Reg) (src : Src 8) : Statement (.andb d src) :=
  of_src .byte 0x06 d src rfl
theorem and (d : Reg) (src : Src 16) : Statement (.and d src) :=
  of_src .word 0x07 d src rfl
theorem xorb (d : Reg) (src : Src 8) : Statement (.xorb d src) :=
  of_src .byte 0x08 d src rfl
theorem xor (d : Reg) (src : Src 16) : Statement (.xor d src) :=
  of_src .word 0x09 d src rfl
theorem cpb (d : Reg) (src : Src 8) : Statement (.cpb d src) :=
  of_src .byte 0x0A d src rfl
theorem cp (d : Reg) (src : Src 16) : Statement (.cp d src) :=
  of_src .word 0x0B d src rfl
theorem cpl (d : Reg) (src : Src 32) : Statement (.cpl d src) :=
  of_src .long 0x10 d src rfl
theorem ldb (d : Reg) (src : Src 8) : Statement (.ldb d src) :=
  of_src .byte 0x20 d src rfl
theorem ld (d : Reg) (src : Src 16) : Statement (.ld d src) :=
  of_src .word 0x21 d src rfl
theorem ldl (d : Reg) (src : Src 32) : Statement (.ldl d src) :=
  of_src .long 0x14 d src rfl
theorem mult (d : Reg) (src : Src 16) : Statement (.mult d src) :=
  of_src .word 0x19 d src rfl
theorem multl (d : Reg) (src : Src 32) : Statement (.multl d src) :=
  of_src .long 0x18 d src rfl
theorem div (d : Reg) (src : Src 16) : Statement (.div d src) :=
  of_src .word 0x1B d src rfl
theorem divl (d : Reg) (src : Src 32) : Statement (.divl d src) :=
  of_src .long 0x1A d src rfl
theorem exb (d : Reg) (src : Opd) : Statement (.exb d src) :=
  of_opd src (encodeOpd_length _ _ _)
theorem ex (d : Reg) (src : Opd) : Statement (.ex d src) :=
  of_opd src (encodeOpd_length _ _ _)
theorem comb (dst : Opd) : Statement (.comb dst) :=
  of_opd dst (encodeOpd_length _ _ _)
theorem com (dst : Opd) : Statement (.com dst) :=
  of_opd dst (encodeOpd_length _ _ _)
theorem negb (dst : Opd) : Statement (.negb dst) :=
  of_opd dst (encodeOpd_length _ _ _)
theorem neg (dst : Opd) : Statement (.neg dst) :=
  of_opd dst (encodeOpd_length _ _ _)
theorem testb (dst : Opd) : Statement (.testb dst) :=
  of_opd dst (encodeOpd_length _ _ _)
theorem test (dst : Opd) : Statement (.test dst) :=
  of_opd dst (encodeOpd_length _ _ _)
theorem testl (dst : Opd) : Statement (.testl dst) :=
  of_opd dst (encodeOpd_length _ _ _)
theorem tsetb (dst : Opd) : Statement (.tsetb dst) :=
  of_opd dst (encodeOpd_length _ _ _)
theorem tset (dst : Opd) : Statement (.tset dst) :=
  of_opd dst (encodeOpd_length _ _ _)
theorem clrb (dst : Opd) : Statement (.clrb dst) :=
  of_opd dst (encodeOpd_length _ _ _)
theorem clr (dst : Opd) : Statement (.clr dst) :=
  of_opd dst (encodeOpd_length _ _ _)
theorem cpbImm (dst : Mem) (v : Byte) : Statement (.cpbImm dst v) :=
  of_memImm 0x0C dst 1 (imm8Word v) rfl
theorem cpImm (dst : Mem) (v : Word) : Statement (.cpImm dst v) :=
  of_memImm 0x0D dst 1 v rfl
theorem ldbImm (dst : Mem) (v : Byte) : Statement (.ldbImm dst v) :=
  of_memImm 0x0C dst 5 (imm8Word v) rfl
theorem ldImm (dst : Mem) (v : Word) : Statement (.ldImm dst v) :=
  of_memImm 0x0D dst 5 v rfl
theorem ldctlbRead (d : Reg) : Statement (.ldctlbRead d) :=
  of_one rfl
theorem ldctlbWrite (s : Reg) : Statement (.ldctlbWrite s) :=
  of_one rfl
theorem setflg (f : BitVec 4) : Statement (.setflg f) :=
  of_one rfl
theorem resflg (f : BitVec 4) : Statement (.resflg f) :=
  of_one rfl
theorem comflg (f : BitVec 4) : Statement (.comflg f) :=
  of_one rfl
theorem nop : Statement (.nop) :=
  of_one rfl
theorem pushImm (p : Reg) (v : Word) : Statement (.pushImm p v) :=
  of_two rfl
theorem push (p : Reg) (src : Opd) : Statement (.push p src) :=
  of_opd src (encodeStack_length _ _ _)
theorem pushl (p : Reg) (src : Opd) : Statement (.pushl p src) :=
  of_opd src (encodeStack_length _ _ _)
theorem pop (dst : Opd) (p : Reg) : Statement (.pop dst p) :=
  of_opd dst (encodeStack_length _ _ _)
theorem popl (dst : Opd) (p : Reg) : Statement (.popl dst p) :=
  of_opd dst (encodeStack_length _ _ _)
theorem ldmLoad (d : Reg) (src : Mem) (n1 : BitVec 4) : Statement (.ldmLoad d src n1) :=
  of_multiple 1 src d n1 rfl
theorem ldmStore (dst : Mem) (s : Reg) (n1 : BitVec 4) : Statement (.ldmStore dst s n1) :=
  of_multiple 9 dst s n1 rfl
theorem ldbStore (dst : Mem) (s : Reg) : Statement (.ldbStore dst s) :=
  of_mem dst (encodeMem_length _ _ _)
theorem ldStore (dst : Mem) (s : Reg) : Statement (.ldStore dst s) :=
  of_mem dst (encodeMem_length _ _ _)
theorem ldlStore (dst : Mem) (s : Reg) : Statement (.ldlStore dst s) :=
  of_mem dst (encodeMem_length _ _ _)
theorem jp (cc : CC) (dst : Mem) : Statement (.jp cc dst) :=
  of_mem dst (encodeMem_length _ _ _)
theorem call (dst : Mem) : Statement (.call dst) :=
  of_mem dst (encodeMem_length _ _ _)
theorem ret (cc : CC) : Statement (.ret cc) :=
  of_one rfl
theorem resb (dst : Opd) (b : BitVec 3) : Statement (.resb dst b) :=
  of_opd dst (encodeOpd_length _ _ _)
theorem res (dst : Opd) (b : BitVec 4) : Statement (.res dst b) :=
  of_opd dst (encodeOpd_length _ _ _)
theorem resbDyn (d s : Reg) : Statement (.resbDyn d s) :=
  of_two rfl
theorem resDyn (d s : Reg) : Statement (.resDyn d s) :=
  of_two rfl
theorem setb (dst : Opd) (b : BitVec 3) : Statement (.setb dst b) :=
  of_opd dst (encodeOpd_length _ _ _)
theorem set (dst : Opd) (b : BitVec 4) : Statement (.set dst b) :=
  of_opd dst (encodeOpd_length _ _ _)
theorem setbDyn (d s : Reg) : Statement (.setbDyn d s) :=
  of_two rfl
theorem setDyn (d s : Reg) : Statement (.setDyn d s) :=
  of_two rfl
theorem bitb (dst : Opd) (b : BitVec 3) : Statement (.bitb dst b) :=
  of_opd dst (encodeOpd_length _ _ _)
theorem bit (dst : Opd) (b : BitVec 4) : Statement (.bit dst b) :=
  of_opd dst (encodeOpd_length _ _ _)
theorem bitbDyn (d s : Reg) : Statement (.bitbDyn d s) :=
  of_two rfl
theorem bitDyn (d s : Reg) : Statement (.bitDyn d s) :=
  of_two rfl
theorem incb (dst : Opd) (n1 : BitVec 4) : Statement (.incb dst n1) :=
  of_opd dst (encodeOpd_length _ _ _)
theorem inc (dst : Opd) (n1 : BitVec 4) : Statement (.inc dst n1) :=
  of_opd dst (encodeOpd_length _ _ _)
theorem decb (dst : Opd) (n1 : BitVec 4) : Statement (.decb dst n1) :=
  of_opd dst (encodeOpd_length _ _ _)
theorem dec (dst : Opd) (n1 : BitVec 4) : Statement (.dec dst n1) :=
  of_opd dst (encodeOpd_length _ _ _)
theorem tccb (cc : CC) (d : Reg) : Statement (.tccb cc d) :=
  of_one rfl
theorem tcc (cc : CC) (d : Reg) : Statement (.tcc cc d) :=
  of_one rfl
theorem ldrbLoad (d : Reg) (disp : Word) : Statement (.ldrbLoad d disp) :=
  of_two rfl
theorem ldrbStore (disp : Word) (s : Reg) : Statement (.ldrbStore disp s) :=
  of_two rfl
theorem ldbBA (d p : Reg) (disp : Word) : Statement (.ldbBA d p disp) :=
  of_two rfl
theorem ldbStoreBA (p : Reg) (disp : Word) (s : Reg) : Statement (.ldbStoreBA p disp s) :=
  of_two rfl
theorem ldbBX (d p x : Reg) : Statement (.ldbBX d p x) :=
  of_two rfl
theorem ldbStoreBX (p x s : Reg) : Statement (.ldbStoreBX p x s) :=
  of_two rfl
theorem ldrLoad (d : Reg) (disp : Word) : Statement (.ldrLoad d disp) :=
  of_two rfl
theorem ldrStore (disp : Word) (s : Reg) : Statement (.ldrStore disp s) :=
  of_two rfl
theorem ldBA (d p : Reg) (disp : Word) : Statement (.ldBA d p disp) :=
  of_two rfl
theorem ldStoreBA (p : Reg) (disp : Word) (s : Reg) : Statement (.ldStoreBA p disp s) :=
  of_two rfl
theorem ldBX (d p x : Reg) : Statement (.ldBX d p x) :=
  of_two rfl
theorem ldStoreBX (p x s : Reg) : Statement (.ldStoreBX p x s) :=
  of_two rfl
theorem ldrlLoad (d : Reg) (disp : Word) : Statement (.ldrlLoad d disp) :=
  of_two rfl
theorem ldrlStore (disp : Word) (s : Reg) : Statement (.ldrlStore disp s) :=
  of_two rfl
theorem ldlBA (d p : Reg) (disp : Word) : Statement (.ldlBA d p disp) :=
  of_two rfl
theorem ldlStoreBA (p : Reg) (disp : Word) (s : Reg) : Statement (.ldlStoreBA p disp s) :=
  of_two rfl
theorem ldlBX (d p x : Reg) : Statement (.ldlBX d p x) :=
  of_two rfl
theorem ldlStoreBX (p x s : Reg) : Statement (.ldlStoreBX p x s) :=
  of_two rfl
theorem lda (d : Reg) (src : Direct) : Statement (.lda d src) :=
  of_direct _ src rfl
theorem ldaBA (d p : Reg) (disp : Word) : Statement (.ldaBA d p disp) :=
  of_two rfl
theorem ldaBX (d p x : Reg) : Statement (.ldaBX d p x) :=
  of_two rfl
theorem ldar (d : Reg) (disp : Word) : Statement (.ldar d disp) :=
  of_two rfl
theorem inbInd (d p : Reg) : Statement (.inbInd d p) :=
  of_one rfl
theorem inInd (d p : Reg) : Statement (.inInd d p) :=
  of_one rfl
theorem outbInd (p s : Reg) : Statement (.outbInd p s) :=
  of_one rfl
theorem outInd (p s : Reg) : Statement (.outInd p s) :=
  of_one rfl
theorem in_ (d : Reg) (port : Word) : Statement (.in_ d port) :=
  of_two rfl
theorem inb (d : Reg) (port : Word) : Statement (.inb d port) :=
  of_two rfl
theorem sin (d : Reg) (port : Word) : Statement (.sin d port) :=
  of_two rfl
theorem sinb (d : Reg) (port : Word) : Statement (.sinb d port) :=
  of_two rfl
theorem out (port : Word) (s : Reg) : Statement (.out port s) :=
  of_two rfl
theorem outb (port : Word) (s : Reg) : Statement (.outb port s) :=
  of_two rfl
theorem sout (port : Word) (s : Reg) : Statement (.sout port s) :=
  of_two rfl
theorem soutb (port : Word) (s : Reg) : Statement (.soutb port s) :=
  of_two rfl
theorem ldps (src : Mem) : Statement (.ldps src) :=
  of_mem src (encodeMem_length _ _ _)
theorem halt : Statement (.halt) :=
  of_one rfl
theorem iret : Statement (.iret) :=
  of_one rfl
theorem mset : Statement (.mset) :=
  of_one rfl
theorem mres : Statement (.mres) :=
  of_one rfl
theorem mbit : Statement (.mbit) :=
  of_one rfl
theorem mreq (d : Reg) : Statement (.mreq d) :=
  of_one rfl
theorem di (vi nvi : Bool) : Statement (.di vi nvi) :=
  of_one rfl
theorem ei (vi nvi : Bool) : Statement (.ei vi nvi) :=
  of_one rfl
theorem ldctlRead (d : Reg) (c : Ctl) : Statement (.ldctlRead d c) :=
  of_one rfl
theorem ldctlWrite (c : Ctl) (s : Reg) : Statement (.ldctlWrite c s) :=
  of_one rfl
theorem sc (n : Byte) : Statement (.sc n) :=
  of_one rfl
theorem dab (d : Reg) : Statement (.dab d) :=
  of_one rfl
theorem extsb (d : Reg) : Statement (.extsb d) :=
  of_one rfl
theorem exts (d : Reg) : Statement (.exts d) :=
  of_one rfl
theorem extsl (d : Reg) : Statement (.extsl d) :=
  of_one rfl
theorem adcb (d s : Reg) : Statement (.adcb d s) :=
  of_one rfl
theorem adc (d s : Reg) : Statement (.adc d s) :=
  of_one rfl
theorem sbcb (d s : Reg) : Statement (.sbcb d s) :=
  of_one rfl
theorem sbc (d s : Reg) : Statement (.sbc d s) :=
  of_one rfl
theorem rldb (l s : Reg) : Statement (.rldb l s) :=
  of_one rfl
theorem rrdb (l s : Reg) : Statement (.rrdb l s) :=
  of_one rfl
theorem ldk (d : Reg) (n : BitVec 4) : Statement (.ldk d n) :=
  of_one rfl
theorem rlb (d : Reg) (two : Bool) : Statement (.rlb d two) :=
  of_one rfl
theorem rl (d : Reg) (two : Bool) : Statement (.rl d two) :=
  of_one rfl
theorem rrb (d : Reg) (two : Bool) : Statement (.rrb d two) :=
  of_one rfl
theorem rr (d : Reg) (two : Bool) : Statement (.rr d two) :=
  of_one rfl
theorem rlcb (d : Reg) (two : Bool) : Statement (.rlcb d two) :=
  of_one rfl
theorem rlc (d : Reg) (two : Bool) : Statement (.rlc d two) :=
  of_one rfl
theorem rrcb (d : Reg) (two : Bool) : Statement (.rrcb d two) :=
  of_one rfl
theorem rrc (d : Reg) (two : Bool) : Statement (.rrc d two) :=
  of_one rfl
theorem sllb (d : Reg) (n : Nat) : Statement (.sllb d n) :=
  of_two rfl
theorem sll (d : Reg) (n : Nat) : Statement (.sll d n) :=
  of_two rfl
theorem slll (d : Reg) (n : Nat) : Statement (.slll d n) :=
  of_two rfl
theorem srlb (d : Reg) (n : Nat) : Statement (.srlb d n) :=
  of_two rfl
theorem srl (d : Reg) (n : Nat) : Statement (.srl d n) :=
  of_two rfl
theorem srll (d : Reg) (n : Nat) : Statement (.srll d n) :=
  of_two rfl
theorem slab (d : Reg) (n : Nat) : Statement (.slab d n) :=
  of_two rfl
theorem sla (d : Reg) (n : Nat) : Statement (.sla d n) :=
  of_two rfl
theorem slal (d : Reg) (n : Nat) : Statement (.slal d n) :=
  of_two rfl
theorem srab (d : Reg) (n : Nat) : Statement (.srab d n) :=
  of_two rfl
theorem sra (d : Reg) (n : Nat) : Statement (.sra d n) :=
  of_two rfl
theorem sral (d : Reg) (n : Nat) : Statement (.sral d n) :=
  of_two rfl
theorem sdlb (d s : Reg) : Statement (.sdlb d s) :=
  of_two rfl
theorem sdl (d s : Reg) : Statement (.sdl d s) :=
  of_two rfl
theorem sdll (d s : Reg) : Statement (.sdll d s) :=
  of_two rfl
theorem sdab (d s : Reg) : Statement (.sdab d s) :=
  of_two rfl
theorem sda (d s : Reg) : Statement (.sda d s) :=
  of_two rfl
theorem sdal (d s : Reg) : Statement (.sdal d s) :=
  of_two rfl
theorem trib (d s r : Reg) : Statement (.trib d s r) :=
  of_two rfl
theorem trirb (d s r : Reg) : Statement (.trirb d s r) :=
  of_two rfl
theorem trdb (d s r : Reg) : Statement (.trdb d s r) :=
  of_two rfl
theorem trdrb (d s r : Reg) : Statement (.trdrb d s r) :=
  of_two rfl
theorem trtib (d s r : Reg) : Statement (.trtib d s r) :=
  of_two rfl
theorem trtirb (d s r : Reg) : Statement (.trtirb d s r) :=
  of_two rfl
theorem trtdb (d s r : Reg) : Statement (.trtdb d s r) :=
  of_two rfl
theorem trtdrb (d s r : Reg) : Statement (.trtdrb d s r) :=
  of_two rfl
theorem cpib (d s r : Reg) (cc : CC) : Statement (.cpib d s r cc) :=
  of_two rfl
theorem cpi (d s r : Reg) (cc : CC) : Statement (.cpi d s r cc) :=
  of_two rfl
theorem cpirb (d s r : Reg) (cc : CC) : Statement (.cpirb d s r cc) :=
  of_two rfl
theorem cpir (d s r : Reg) (cc : CC) : Statement (.cpir d s r cc) :=
  of_two rfl
theorem cpdb (d s r : Reg) (cc : CC) : Statement (.cpdb d s r cc) :=
  of_two rfl
theorem cpd (d s r : Reg) (cc : CC) : Statement (.cpd d s r cc) :=
  of_two rfl
theorem cpdrb (d s r : Reg) (cc : CC) : Statement (.cpdrb d s r cc) :=
  of_two rfl
theorem cpdr (d s r : Reg) (cc : CC) : Statement (.cpdr d s r cc) :=
  of_two rfl
theorem cpsib (d s r : Reg) (cc : CC) : Statement (.cpsib d s r cc) :=
  of_two rfl
theorem cpsi (d s r : Reg) (cc : CC) : Statement (.cpsi d s r cc) :=
  of_two rfl
theorem cpsirb (d s r : Reg) (cc : CC) : Statement (.cpsirb d s r cc) :=
  of_two rfl
theorem cpsir (d s r : Reg) (cc : CC) : Statement (.cpsir d s r cc) :=
  of_two rfl
theorem cpsdb (d s r : Reg) (cc : CC) : Statement (.cpsdb d s r cc) :=
  of_two rfl
theorem cpsd (d s r : Reg) (cc : CC) : Statement (.cpsd d s r cc) :=
  of_two rfl
theorem cpsdrb (d s r : Reg) (cc : CC) : Statement (.cpsdrb d s r cc) :=
  of_two rfl
theorem cpsdr (d s r : Reg) (cc : CC) : Statement (.cpsdr d s r cc) :=
  of_two rfl
theorem ldib (d s r : Reg) : Statement (.ldib d s r) :=
  of_two rfl
theorem ldi (d s r : Reg) : Statement (.ldi d s r) :=
  of_two rfl
theorem ldirb (d s r : Reg) : Statement (.ldirb d s r) :=
  of_two rfl
theorem ldir (d s r : Reg) : Statement (.ldir d s r) :=
  of_two rfl
theorem lddb (d s r : Reg) : Statement (.lddb d s r) :=
  of_two rfl
theorem ldd (d s r : Reg) : Statement (.ldd d s r) :=
  of_two rfl
theorem lddrb (d s r : Reg) : Statement (.lddrb d s r) :=
  of_two rfl
theorem lddr (d s r : Reg) : Statement (.lddr d s r) :=
  of_two rfl
theorem ini (d s r : Reg) : Statement (.ini d s r) :=
  of_two rfl
theorem inib (d s r : Reg) : Statement (.inib d s r) :=
  of_two rfl
theorem sini (d s r : Reg) : Statement (.sini d s r) :=
  of_two rfl
theorem sinib (d s r : Reg) : Statement (.sinib d s r) :=
  of_two rfl
theorem inir (d s r : Reg) : Statement (.inir d s r) :=
  of_two rfl
theorem inirb (d s r : Reg) : Statement (.inirb d s r) :=
  of_two rfl
theorem sinir (d s r : Reg) : Statement (.sinir d s r) :=
  of_two rfl
theorem sinirb (d s r : Reg) : Statement (.sinirb d s r) :=
  of_two rfl
theorem ind (d s r : Reg) : Statement (.ind d s r) :=
  of_two rfl
theorem indb (d s r : Reg) : Statement (.indb d s r) :=
  of_two rfl
theorem sind (d s r : Reg) : Statement (.sind d s r) :=
  of_two rfl
theorem sindb (d s r : Reg) : Statement (.sindb d s r) :=
  of_two rfl
theorem indr (d s r : Reg) : Statement (.indr d s r) :=
  of_two rfl
theorem indrb (d s r : Reg) : Statement (.indrb d s r) :=
  of_two rfl
theorem sindr (d s r : Reg) : Statement (.sindr d s r) :=
  of_two rfl
theorem sindrb (d s r : Reg) : Statement (.sindrb d s r) :=
  of_two rfl
theorem outi (d s r : Reg) : Statement (.outi d s r) :=
  of_two rfl
theorem outib (d s r : Reg) : Statement (.outib d s r) :=
  of_two rfl
theorem souti (d s r : Reg) : Statement (.souti d s r) :=
  of_two rfl
theorem soutib (d s r : Reg) : Statement (.soutib d s r) :=
  of_two rfl
theorem otir (d s r : Reg) : Statement (.otir d s r) :=
  of_two rfl
theorem otirb (d s r : Reg) : Statement (.otirb d s r) :=
  of_two rfl
theorem sotir (d s r : Reg) : Statement (.sotir d s r) :=
  of_two rfl
theorem sotirb (d s r : Reg) : Statement (.sotirb d s r) :=
  of_two rfl
theorem outd (d s r : Reg) : Statement (.outd d s r) :=
  of_two rfl
theorem outdb (d s r : Reg) : Statement (.outdb d s r) :=
  of_two rfl
theorem soutd (d s r : Reg) : Statement (.soutd d s r) :=
  of_two rfl
theorem soutdb (d s r : Reg) : Statement (.soutdb d s r) :=
  of_two rfl
theorem otdr (d s r : Reg) : Statement (.otdr d s r) :=
  of_two rfl
theorem otdrb (d s r : Reg) : Statement (.otdrb d s r) :=
  of_two rfl
theorem sotdr (d s r : Reg) : Statement (.sotdr d s r) :=
  of_two rfl
theorem sotdrb (d s r : Reg) : Statement (.sotdrb d s r) :=
  of_two rfl
theorem ldbShort (d : Reg) (v : Byte) : Statement (.ldbShort d v) :=
  of_one rfl
theorem calr (p : BitVec 12) : Statement (.calr p) :=
  of_one rfl
theorem jr (cc : CC) (p : Byte) : Statement (.jr cc p) :=
  of_one rfl
theorem dbjnz (r : Reg) (p : BitVec 7) : Statement (.dbjnz r p) :=
  of_one rfl
theorem djnz (r : Reg) (p : BitVec 7) : Statement (.djnz r p) :=
  of_one rfl
theorem epu0E (lo : Byte) (w2 : Word) : Statement (.epu0E lo w2) :=
  of_two rfl
theorem epu0F (lo : Byte) (w2 : Word) : Statement (.epu0F lo w2) :=
  of_two rfl
theorem epu4E (lo : Byte) (w2 : Word) : Statement (.epu4E lo w2) :=
  of_two rfl
theorem epu4F (lo : Byte) (w2 : Word) : Statement (.epu4F lo w2) :=
  of_two rfl
theorem epu8E (lo : Byte) (w2 : Word) : Statement (.epu8E lo w2) :=
  of_two rfl
theorem epu8F (lo : Byte) (w2 : Word) : Statement (.epu8F lo w2) :=
  of_two rfl

end Laws.EncodingLength

end Sys2Proof
end

