-- ==== Sys2Proof/Tests/Slice0.lean ====
section
/-! SUPPORT. Tests: ill-formed terms that WellFormed refuses, words written out from the spec's encodings,
single steps with the results of spec/95_test_vectors.md, and witnesses of the obligations' hypotheses. -/

namespace Sys2Proof

open Machine

/- WellFormed refuses (30_encoding.md R132, 43_rotate_shift.md R200). -/

theorem test_wf_odd_long_register : Instr.wf (.exts 3) = false := by decide
theorem test_wf_odd_long_source : Instr.wf (.ldl 2 (.reg 1)) = false := by decide
theorem test_wf_quad_register : Instr.wf (.extsl 2) = false ∧ Instr.wf (.extsl 1) = false := by decide
theorem test_wf_index_register : Instr.wf (.lda 2 (.idx 0 (.short 0 0))) = false := by decide
theorem test_wf_indirect_register : Instr.wf (.add 1 (.mem (.ir 0))) = false ∧ Instr.wf (.clr (.mem (.ir 3))) = false := by
  decide
theorem test_wf_operand_index : Instr.wf (.com (.mem (.dir (.idx 0 (.long 0 0))))) = false := by decide
theorem test_wf_pointer_register : Instr.wf (.pushImm 0 1) = false ∧ Instr.wf (.ldBA 1 5 0) = false := by decide
theorem test_wf_port_register : Instr.wf (.inInd 1 0) = false := by decide
theorem test_wf_base_index : Instr.wf (.ldBX 1 2 0) = false := by decide
theorem test_wf_left_counts : Instr.wf (.slab 1 9) = false ∧ Instr.wf (.sla 1 17) = false ∧ Instr.wf (.slal 2 33) = false := by
  decide
theorem test_wf_right_counts : Instr.wf (.srab 1 0) = false ∧ Instr.wf (.sra 1 17) = false ∧ Instr.wf (.srll 2 33) = false := by
  decide
theorem test_wf_accepts : Instr.wf (.add 2 (.mem (.ir 4))) = true ∧ Instr.wf (.slab 1 8) = true ∧ Instr.wf (.extsl 4) = true := by
  decide

/- Decoding: for every constructor one word, or one word and the next, written out from the bit patterns of
spec/opcode_table.json; the operand fields hold values of their own. -/

/-- Every entry decodes to its instruction; an entry has the number of bits, the bits (the first word lowest) and
the instruction. -/
def decodesAll (l : List (Nat × Nat × Instr)) : Bool := l.all fun e => decide (decodeTableWord e.1 e.2.1 = some e.2.2)

theorem test_decode_1 : decodesAll
  [(32, 0x5ED24007, .addb 7 (.mem (.dir (.da (.short 94 210))))),
   (16, 0x01CC, .add 12 (.mem (.ir 12))),
   (48, 0x584E88005674, .addl 4 (.mem (.dir (.idx 7 (.long 8 22606))))),
   (48, 0x3C37A00042AA, .subb 10 (.mem (.dir (.idx 10 (.long 32 15415))))),
   (32, 0x1D134384, .sub 4 (.mem (.dir (.idx 8 (.short 29 19))))),
   (32, 0x357452CA, .subl 10 (.mem (.dir (.idx 12 (.short 53 116))))),
   (48, 0x45CB830044C1, .orb 1 (.mem (.dir (.idx 12 (.long 3 17867))))),
   (48, 0x636AA9004584, .or 4 (.mem (.dir (.idx 8 (.long 41 25450))))),
   (32, 0x4D184694, .andb 4 (.mem (.dir (.idx 9 (.short 77 24))))),
   (48, 0x61BCD1004722, .and 2 (.mem (.dir (.idx 2 (.long 81 25020))))),
   (48, 0xDD8ABC004802, .xorb 2 (.mem (.dir (.da (.long 60 56714))))),
   (32, 0x62CD4998, .xor 8 (.mem (.dir (.idx 9 (.short 98 205))))),
   (32, 0xD2D20A04, .cpb 4 (.imm 210)),
   (32, 0x23CE4B5B, .cp 11 (.mem (.dir (.idx 5 (.short 35 206))))),
   (32, 0x151B500E, .cpl 14 (.mem (.dir (.da (.short 21 27))))),
   (48, 0x0805B6006008, .ldb 8 (.mem (.dir (.da (.long 54 2053))))),
   (16, 0xA1E8, .ld 8 (.reg 14)),
   (16, 0x1488, .ldl 8 (.mem (.ir 8))),
   (16, 0x1982, .mult 2 (.mem (.ir 8))),
   (16, 0x188C, .multl 12 (.mem (.ir 8)))] = true := by decide

theorem test_decode_2 : decodesAll
  [(48, 0x902E9A005B3A, .div 10 (.mem (.dir (.idx 3 (.long 26 36910))))),
   (48, 0x775BD46F1A04, .divl 4 (.imm 3564074843)),
   (48, 0x9A4ACE006C35, .exb 5 (.mem (.dir (.idx 3 (.long 78 39498))))),
   (48, 0xC96CDF006DCB, .ex 11 (.mem (.dir (.idx 12 (.long 95 51564))))),
   (32, 0x66964C90, .comb (.mem (.dir (.idx 9 (.short 102 150))))),
   (16, 0x8DD0, .com (.reg 13)),
   (16, 0x0C42, .negb (.mem (.ir 4))),
   (32, 0x70484D62, .neg (.mem (.dir (.idx 6 (.short 112 72))))),
   (16, 0x0C24, .testb (.mem (.ir 2))),
   (48, 0xF371C1004D04, .test (.mem (.dir (.da (.long 65 62321))))),
   (48, 0x6261F3005C28, .testl (.mem (.dir (.idx 2 (.long 115 25185))))),
   (48, 0x0D49DA004C66, .tsetb (.mem (.dir (.idx 6 (.long 90 3401))))),
   (16, 0x0DA6, .tset (.mem (.ir 10))),
   (32, 0x0F394C08, .clrb (.mem (.dir (.da (.short 15 57))))),
   (48, 0xD66C98004D08, .clr (.mem (.dir (.da (.long 24 54892))))),
   (32, 0x15150CC1, .cpbImm (.ir 12) 21),
   (48, 0xFB73087A4D01, .cpImm (.dir (.da (.short 8 122))) 64371),
   (48, 0x86861D254C75, .ldbImm (.dir (.idx 7 (.short 29 37))) 134),
   (32, 0x16490D65, .ldImm (.ir 6) 5705),
   (16, 0x8C61, .ldctlbRead 6)] = true := by decide

theorem test_decode_3 : decodesAll
  [(16, 0x8C69, .ldctlbWrite 6),
   (16, 0x8D21, .setflg 2),
   (16, 0x8D63, .resflg 6),
   (16, 0x8DB5, .comflg 11),
   (16, 0x8D07, .nop),
   (32, 0x90550DC9, .pushImm 12 36949),
   (48, 0xF07C96005360, .push 6 (.mem (.dir (.da (.long 22 61564))))),
   (16, 0x9142, .pushl 4 (.reg 2)),
   (32, 0x383B57C0, .pop (.mem (.dir (.da (.short 56 59)))) 12),
   (48, 0x31F0A000558E, .popl (.mem (.dir (.idx 14 (.long 32 12784)))) 8),
   (32, 0x0A091CA1, .ldmLoad 10 (.ir 10) 9),
   (32, 0x0F061C69, .ldmStore (.ir 6) 15 6),
   (16, 0x2E8C, .ldbStore (.ir 8) 12),
   (16, 0x2F8B, .ldStore (.ir 8) 11),
   (32, 0x3E4A5D9A, .ldlStore (.dir (.idx 9 (.short 62 74))) 10),
   (32, 0x52C65E88, .jp .always (.dir (.idx 8 (.short 82 198)))),
   (32, 0x24705FA0, .call (.dir (.idx 10 (.short 36 112)))),
   (16, 0x9E09, .ret .ge),
   (16, 0x2225, .resb (.mem (.ir 2)) 5),
   (32, 0x5AC0630F, .res (.mem (.dir (.da (.short 90 192)))) 15)] = true := by decide

theorem test_decode_4 : decodesAll
  [(32, 0x02002202, .resbDyn 2 2),
   (32, 0x01002307, .resDyn 1 7),
   (32, 0x73A364C5, .setb (.mem (.dir (.idx 12 (.short 115 163)))) 5),
   (16, 0x25C0, .set (.mem (.ir 12)) 0),
   (32, 0x0000240D, .setbDyn 0 13),
   (32, 0x05002502, .setDyn 5 2),
   (32, 0x16DD66E3, .bitb (.mem (.dir (.idx 14 (.short 22 221)))) 3),
   (32, 0x0D1D677F, .bit (.mem (.dir (.idx 7 (.short 13 29)))) 15),
   (32, 0x0100260F, .bitbDyn 1 15),
   (32, 0x01002708, .bitDyn 1 8),
   (16, 0x2848, .incb (.mem (.ir 4)) 8),
   (16, 0xA936, .inc (.reg 3) 6),
   (48, 0x501FAB006A1C, .decb (.mem (.dir (.idx 1 (.long 43 20511)))) 12),
   (48, 0x8B87CB006BAC, .dec (.mem (.dir (.idx 10 (.long 75 35719)))) 12),
   (16, 0xAE41, .tccb .lt 4),
   (16, 0xAF4D, .tcc .pl 4),
   (32, 0x397B3008, .ldrbLoad 8 14715),
   (32, 0xC8AD320D, .ldrbStore 51373 13),
   (32, 0xEEC3308C, .ldbBA 12 8 61123),
   (32, 0x37C33224, .ldbStoreBA 2 14275 4)] = true := by decide

theorem test_decode_5 : decodesAll
  [(32, 0x01007067, .ldbBX 7 6 1),
   (32, 0x0A007287, .ldbStoreBX 8 10 7),
   (32, 0x3F90310D, .ldrLoad 13 16272),
   (32, 0x5CD63307, .ldrStore 23766 7),
   (32, 0xA4003147, .ldBA 7 4 41984),
   (32, 0x40603324, .ldStoreBA 2 16480 4),
   (32, 0x01007125, .ldBX 5 2 1),
   (32, 0x02007382, .ldStoreBX 8 2 2),
   (32, 0xCF8D3504, .ldrlLoad 4 53133),
   (32, 0x8860370A, .ldrlStore 34912 10),
   (32, 0xE0693526, .ldlBA 6 2 57449),
   (32, 0x1E87376C, .ldlStoreBA 6 7815 12),
   (32, 0x070075E4, .ldlBX 4 14 7),
   (32, 0x02007782, .ldlStoreBX 8 2 2),
   (32, 0x3AAC76F6, .lda 6 (.idx 15 (.short 58 172))),
   (32, 0x5F533462, .ldaBA 2 6 24403),
   (32, 0x040074EC, .ldaBX 12 14 4),
   (32, 0x05EE3406, .ldar 6 1518),
   (16, 0x3C45, .inbInd 5 4),
   (16, 0x3DBA, .inInd 10 11)] = true := by decide

theorem test_decode_6 : decodesAll
  [(16, 0x3EC0, .outbInd 12 0),
   (16, 0x3F7E, .outInd 7 14),
   (32, 0x81F53B44, .in_ 4 33269),
   (32, 0x417D3A14, .inb 1 16765),
   (32, 0x08203BF5, .sin 15 2080),
   (32, 0xD6953AB5, .sinb 11 54933),
   (32, 0x83713B16, .out 33649 1),
   (32, 0x3FE23A16, .outb 16354 1),
   (32, 0x495A3B27, .sout 18778 2),
   (32, 0xD5FD3AF7, .soutb 54781 15),
   (16, 0x39E0, .ldps (.ir 14)),
   (16, 0x7A00, .halt),
   (16, 0x7B00, .iret),
   (16, 0x7B08, .mset),
   (16, 0x7B09, .mres),
   (16, 0x7B0A, .mbit),
   (16, 0x7B7D, .mreq 7),
   (16, 0x7C02, .di false true),
   (16, 0x7C05, .ei true false),
   (16, 0x7DD5, .ldctlRead 13 .psapoff)] = true := by decide

theorem test_decode_7 : decodesAll
  [(16, 0x7D0C, .ldctlWrite .psapseg 0),
   (16, 0x7FAC, .sc 172),
   (16, 0xB0B0, .dab 11),
   (16, 0xB130, .extsb 3),
   (16, 0xB1CA, .exts 12),
   (16, 0xB107, .extsl 0),
   (16, 0xB479, .adcb 9 7),
   (16, 0xB520, .adc 0 2),
   (16, 0xB679, .sbcb 9 7),
   (16, 0xB73B, .sbc 11 3),
   (16, 0xBEB6, .rldb 6 11),
   (16, 0xBCB5, .rrdb 5 11),
   (16, 0xBD03, .ldk 0 3),
   (16, 0xB250, .rlb 5 false),
   (16, 0xB3A2, .rl 10 true),
   (16, 0xB2A6, .rrb 10 true),
   (16, 0xB3C6, .rr 12 true),
   (16, 0xB258, .rlcb 5 false),
   (16, 0xB32A, .rlc 2 true),
   (16, 0xB2EC, .rrcb 14 false)] = true := by decide

theorem test_decode_8 : decodesAll
  [(16, 0xB39C, .rrc 9 false),
   (32, 0x0001B271, .sllb 7 1),
   (32, 0x0001B341, .sll 4 1),
   (32, 0x001FB305, .slll 0 31),
   (32, 0x00FEB2D1, .srlb 13 2),
   (32, 0xFFF0B3D1, .srl 13 16),
   (32, 0xFFFAB3E5, .srll 14 6),
   (32, 0x0004B249, .slab 4 4),
   (32, 0x0007B3E9, .sla 14 7),
   (32, 0x001FB32D, .slal 2 31),
   (32, 0x00FCB249, .srab 4 4),
   (32, 0xFFF7B319, .sra 1 9),
   (32, 0xFFEEB30D, .sral 0 18),
   (32, 0x0F00B2A3, .sdlb 10 15),
   (32, 0x0300B3F3, .sdl 15 3),
   (32, 0x0A00B3C7, .sdll 12 10),
   (32, 0x0F00B24B, .sdab 4 15),
   (32, 0x0000B30B, .sda 0 0),
   (32, 0x0A00B32F, .sdal 2 10),
   (32, 0x0280B880, .trib 8 8 2)] = true := by decide

theorem test_decode_9 : decodesAll
  [(32, 0x0980B824, .trirb 2 8 9),
   (32, 0x09C0B868, .trdb 6 12 9),
   (32, 0x0E80B8CC, .trdrb 12 8 14),
   (32, 0x0F80B8C2, .trtib 12 8 15),
   (32, 0x038EB846, .trtirb 4 8 3),
   (32, 0x0BC0B8AA, .trtdb 10 12 11),
   (32, 0x0C2EB82E, .trtdrb 2 2 12),
   (32, 0x03B9BAC0, .cpib 11 12 3 .ge),
   (32, 0x0BEABB80, .cpi 14 8 11 .gt),
   (32, 0x09E0BA44, .cpirb 14 4 9 .never),
   (32, 0x0BEBBB44, .cpir 14 4 11 .ugt),
   (32, 0x0F96BAA8, .cpdb 9 10 15 .eq),
   (32, 0x053EBBA8, .cpd 3 10 5 .ne),
   (32, 0x032CBA2C, .cpdrb 2 2 3 .nov),
   (32, 0x0ED9BBCC, .cpdr 13 12 14 .ge),
   (32, 0x03E2BAE2, .cpsib 14 14 3 .le),
   (32, 0x0749BB62, .cpsi 4 6 7 .ge),
   (32, 0x058CBAE6, .cpsirb 8 14 5 .nov),
   (32, 0x0AE5BBA6, .cpsir 14 10 10 .mi),
   (32, 0x03E3BAAA, .cpsdb 14 10 3 .ule)] = true := by decide

theorem test_decode_10 : decodesAll
  [(32, 0x028EBB8A, .cpsd 8 8 2 .ne),
   (32, 0x0FE8BACE, .cpsdrb 14 12 15 .always),
   (32, 0x0D69BB6E, .cpsdr 6 6 13 .ge),
   (32, 0x0F28BAE1, .ldib 2 14 15),
   (32, 0x0148BBA1, .ldi 4 10 1),
   (32, 0x0F80BAE1, .ldirb 8 14 15),
   (32, 0x0740BB81, .ldir 4 8 7),
   (32, 0x0568BA89, .lddb 6 8 5),
   (32, 0x09E8BBE9, .ldd 14 14 9),
   (32, 0x0580BA49, .lddrb 8 4 5),
   (32, 0x0FC0BBA9, .lddr 12 10 15),
   (32, 0x05E83B90, .ini 14 9 5),
   (32, 0x04483A30, .inib 4 3 4),
   (32, 0x0E483BE1, .sini 4 14 14),
   (32, 0x00C83AE1, .sinib 12 14 0),
   (32, 0x0CC03BF0, .inir 12 15 12),
   (32, 0x0DA03AD0, .inirb 10 13 13),
   (32, 0x0D403B21, .sinir 4 2 13),
   (32, 0x0A203A81, .sinirb 2 8 10),
   (32, 0x04483B28, .ind 4 2 4)] = true := by decide

theorem test_decode_11 : decodesAll
  [(32, 0x02A83AA8, .indb 10 10 2),
   (32, 0x0DE83B49, .sind 14 4 13),
   (32, 0x07E83A79, .sindb 14 7 7),
   (32, 0x09203BB8, .indr 2 11 9),
   (32, 0x03203AE8, .indrb 2 14 3),
   (32, 0x09C03B29, .sindr 12 2 9),
   (32, 0x02C03A89, .sindrb 12 8 2),
   (32, 0x07683BA2, .outi 6 10 7),
   (32, 0x03483A22, .outib 4 2 3),
   (32, 0x01D83B23, .souti 13 2 1),
   (32, 0x09483AA3, .soutib 4 10 9),
   (32, 0x07403B82, .otir 4 8 7),
   (32, 0x0D903AA2, .otirb 9 10 13),
   (32, 0x09E03B23, .sotir 14 2 9),
   (32, 0x02B03A23, .sotirb 11 2 2),
   (32, 0x04683BCA, .outd 6 12 4),
   (32, 0x09983AAA, .outdb 9 10 9),
   (32, 0x05E83BAB, .soutd 14 10 5),
   (32, 0x02483AAB, .soutdb 4 10 2),
   (32, 0x0D503B8A, .otdr 5 8 13)] = true := by decide

theorem test_decode_12 : decodesAll
  [(32, 0x00203ACA, .otdrb 2 12 0),
   (32, 0x06203B6B, .sotdr 2 6 6),
   (32, 0x09803AEB, .sotdrb 8 14 9),
   (16, 0xC134, .ldbShort 1 52),
   (16, 0xDFDB, .calr 4059),
   (16, 0xE9E1, .jr .ge 225),
   (16, 0xFC27, .dbjnz 12 39),
   (16, 0xFEE6, .djnz 14 102),
   (32, 0xF5200EB0, .epu0E 176 62752),
   (32, 0xF2F20F5F, .epu0F 95 62194),
   (32, 0xDCA94E2C, .epu4E 44 56489),
   (32, 0x5A1C4FF7, .epu4F 247 23068),
   (32, 0xB6AA8E28, .epu8E 40 46762),
   (32, 0xCE3B8FCB, .epu8F 203 52795)] = true := by decide

/-- The words that are no instruction (spec/95_test_vectors.md section 2.3). -/
theorem test_decode_refuses :
    ([[0x1601], [0x3600], [0x3800], [0x7800], [0x7E00], [0x9D00], [0x9F00], [0xB900], [0xBF00], [0x8D17], [0x8D0A], [0x0112],
      [0x9403], [0xA608], [0x2C02], [0x4102, 0x8312, 0x1234], [0x0009, 0x4546], [0xB311, 0x0011], [0x7D11],
      [0x2506, 0x0501]] : List (List Word)).all
      (fun ws => match decodeWords ws with
        | .error (.reserved _) => true
        | _ => false) = true := by decide

/-- The operand forms on one instruction (spec/95_test_vectors.md section 2.1), in bytes as memory holds them. -/
theorem test_decode_forms :
    decode [0x81, 0x12] = .ok (.add 2 (.reg 1), []) ∧
    decode [0x01, 0x02, 0x00, 0x05] = .ok (.add 2 (.imm 5), []) ∧
    decode [0x01, 0x42] = .ok (.add 2 (.mem (.ir 4)), []) ∧
    decode [0x41, 0x02, 0x03, 0x34] = .ok (.add 2 (.mem (.dir (.da (.short 3 0x34)))), []) ∧
    decode [0x41, 0x02, 0x83, 0x00, 0x12, 0x34] = .ok (.add 2 (.mem (.dir (.da (.long 3 0x1234)))), []) ∧
    decode [0x41, 0x52, 0x83, 0x00, 0x12, 0x34] = .ok (.add 2 (.mem (.dir (.idx 5 (.long 3 0x1234)))), []) ∧
    decode [0x16, 0x02, 0x00, 0x00, 0x00, 0x05] = .ok (.addl 2 (.imm 5), []) ∧
    decode [0x00, 0x09, 0x45, 0x45] = .ok (.addb 9 (.imm 0x45), []) := by decide

/- Single steps. The results are those of spec/95_test_vectors.md sections 3 and 4. -/

/-- A state at `(1, 0x0200)` with FCW, word registers and words of segment 0 given. -/
def start (fcw : Word) (rs : List (Reg × Word)) (ms : List (Word × Word)) : State :=
  ms.foldl (fun s m => poke .word ⟨0, m.1⟩ m.2 s)
    (rs.foldl (fun s r => writeWord r.1 r.2 s)
      { State.reset with pc := ⟨1, 0x0200⟩, fcw := Fcw.ofWord fcw, resetReq := false })

/-- One step of the words at the PC. -/
def run (ws : List Word) (s : State) : Option State :=
  match step (withWords s ws) with
  | .next t => some t
  | _ => none

/-- Why one step of the words at the PC is refused. -/
def stop (ws : List Word) (s : State) : Option Refusal :=
  match step (withWords s ws) with
  | .refused r => some r
  | _ => none

/-- C, Z, S, P/V, D, H as the bits 7 to 2 of FLAGS, and the bits above them. -/
def word (f : Fcw) : Word := f.toWord 0

/-- A word register and FCW after a step. -/
def regFcw (r : Reg) (o : Option State) : Option (Word × Word) := o.map fun t => (readWord r t, word t.fcw)

/-- Two word registers after a step. -/
def regs2 (r q : Reg) (o : Option State) : Option (Word × Word) := o.map fun t => (readWord r t, readWord q t)

/-- A word register and C, Z, S after a step whose P/V is free. -/
def regCZS (r : Reg) (o : Option State) : Option (Word × Bool × Bool × Bool) :=
  o.map fun t => (readWord r t, t.fcw.c, t.fcw.z, t.fcw.s)

/-- A word of segment 0 and a word register after a step. -/
def memReg (a : Word) (r : Reg) (o : Option State) : Option (Word × Word) :=
  o.map fun t => (peek .word ⟨0, a⟩ t, readWord r t)

/-- The PC after a step. -/
def pcOf (o : Option State) : Option Addr := o.map State.pc

theorem test_clr : regFcw 3 (run [0x8D38] (start 0xC0E0 [(3, 0xBEEF)] [])) = some (0, 0xC0E0) := by decide
theorem test_clrb : regFcw 1 (run [0x8C18] (start 0xC000 [(1, 0xABCD)] [])) = some (0x00CD, 0xC000) := by decide
theorem test_ex : regs2 1 2 (run [0xAD21] (start 0xC000 [(1, 0x1111), (2, 0x2222)] [])) = some (0x2222, 0x1111) := by decide
theorem test_exb : memReg 0x2000 1 (run [0x2C29] (start 0xC000 [(1, 0x00AA), (3, 0x2000)] [(0x2000, 0x5577)])) =
    some (0xAA77, 0x0055) := by decide
theorem test_ldb_low : regFcw 5 (run [0xCDFF] (start 0xC000 [(5, 0x1234)] [])) = some (0x12FF, 0xC000) := by decide
theorem test_ldl_store : memReg 0x2002 2 (run [0x1D24] (start 0xC000 [(3, 0x2000), (4, 0x1234), (5, 0x5678)] [])) =
    some (0x5678, 0) := by decide
theorem test_ld_based_index :
    regFcw 2 (run [0x7142, 0x0300] (start 0xC000 [(5, 0x2000), (3, 4)] [(0x2004, 0x7777)])) = some (0x7777, 0xC000) := by
  decide
theorem test_lda : ∃ t, exec (.lda 4 (.idx 3 (.long 5 0x2000))) (start 0xC000 [(3, 0x10)] []) = .next t ∧
    addrOf (readLong 4 t) = ⟨5, 0x2010⟩ := by
  refine ⟨_, rfl, ?_⟩
  simp only [readLong_advance, readLong_spend, readLong_writeLong_same, addrOf_longOf]
  decide
theorem test_ldar : ∃ t, exec (.ldar 4 0xFFFE) (start 0xC000 [] []) = .next t ∧ addrOf (readLong 4 t) = ⟨1, 0x0202⟩ := by
  refine ⟨_, rfl, ?_⟩
  simp only [readLong_advance, readLong_spend, readLong_writeLong_same, addrOf_longOf]
  decide
theorem test_ldk : regFcw 7 (run [0xBD70] (start 0xC0FC [(7, 0xFFFF)] [])) = some (0, 0xC0FC) := by decide
theorem test_ldm_load :
    regs2 2 4 (run [0x1C81, 0x0202] (start 0xC000 [(9, 0x2000)] [(0x2000, 0xA), (0x2002, 0xB), (0x2004, 0xC)])) =
    some (0xA, 0xC) := by decide
theorem test_ldm_store : memReg 0x2004 9 (run [0x1C89, 0x0202] (start 0xC000 [(9, 0x2000), (2, 1), (3, 2), (4, 3)] [])) =
    some (3, 0x2000) := by decide
theorem test_pop : regs2 1 15 (run [0x97E1] (start 0xC000 [(15, 0x7FFC)] [(0x7FFC, 0xABCD)])) = some (0xABCD, 0x7FFE) := by
  decide
theorem test_pop_wraps : regs2 2 3 (run [0x9721] (start 0xC000 [(2, 0x0300), (3, 0xFFFE)] [])) = some (0x0300, 0) := by decide
theorem test_push : memReg 0x7FFE 15 (run [0x93E1] (start 0xC000 [(15, 0x8000), (1, 0x1234)] [])) =
    some (0x1234, 0x7FFE) := by decide
theorem test_push_imm : memReg 0x7FFE 15 (run [0x0DE9, 0x1234] (start 0xC000 [(15, 0x8000)] [])) =
    some (0x1234, 0x7FFE) := by decide
theorem test_pushl : memReg 0x7FFE 15 (run [0x91E2] (start 0xC000 [(15, 0x8000), (2, 0x1122), (3, 0x3344)] [])) =
    some (0x3344, 0x7FFC) := by decide
theorem test_push_overlap : stop [0x93EF] (start 0xC000 [(15, 0x8000)] []) = some .pushOverlap := by decide

theorem test_add_overflow : regFcw 1 (run [0x0101, 1] (start 0xC000 [(1, 0x7FFF)] [])) = some (0x8000, 0xC030) := by decide
theorem test_add_carry : regFcw 1 (run [0x0101, 0x8000] (start 0xC000 [(1, 0x8000)] [])) = some (0, 0xC0D0) := by decide
theorem test_addb_half : regFcw 0 (run [0x0008, 0x0101] (start 0xC000 [(0, 0x0F)] [])) = some (0x10, 0xC004) := by decide
theorem test_addb_carry : regFcw 0 (run [0x0008, 0x8080] (start 0xC000 [(0, 0x80)] [])) = some (0, 0xC0D0) := by decide
theorem test_addl : regs2 2 3 (run [0x1602, 0, 1] (start 0xC000 [(2, 0x7FFF), (3, 0xFFFF)] [])) = some (0x8000, 0) := by decide
theorem test_adc : regFcw 1 (run [0xB521] (start 0xC080 [(1, 0x7FFF)] [])) = some (0x8000, 0xC030) := by decide
theorem test_adcb : regFcw 1 (run [0xB419] (start 0xC080 [(1, 0x000F)] [])) = some (0x0010, 0xC004) := by decide
theorem test_sub_borrow : regFcw 1 (run [0x0301, 0xFFFF] (start 0xC000 [(1, 0x7FFF)] [])) = some (0x8000, 0xC0B0) := by decide
theorem test_subb : regFcw 0 (run [0x0208, 0x1515] (start 0xC000 [(0, 0x42)] [])) = some (0x2D, 0xC00C) := by decide
theorem test_subl : regFcw 2 (run [0x1202, 0, 1] (start 0xC000 [] [])) = some (0xFFFF, 0xC0A0) := by decide
theorem test_sbc : regFcw 1 (run [0xB721] (start 0xC080 [(1, 0x8000)] [])) = some (0x7FFF, 0xC010) := by decide
theorem test_cp : regFcw 1 (run [0x0B01, 0x8000] (start 0xC000 [(1, 1)] [])) = some (1, 0xC0B0) := by decide
theorem test_cp_memory : regFcw 1 (run [0x4D01, 0x8000, 0x2000, 7] (start 0xC000 [] [(0x2000, 5)])) = some (0, 0xC0A0) := by
  decide
theorem test_neg : regFcw 1 (run [0x8D12] (start 0xC000 [(1, 0x8000)] [])) = some (0x8000, 0xC0B0) := by decide
theorem test_neg_zero : regFcw 1 (run [0x8D12] (start 0xC080 [] [])) = some (0, 0xC040) := by decide
theorem test_inc : regFcw 3 (run [0xA93F] (start 0xC080 [(3, 0x7FF0)] [])) = some (0x8000, 0xC0B0) := by decide
theorem test_incb : regFcw 1 (run [0xA810] (start 0xC000 [(1, 0x7F00)] [])) = some (0x8000, 0xC030) := by decide
theorem test_dec : regFcw 2 (run [0xAB20] (start 0xC000 [] [])) = some (0xFFFF, 0xC020) := by decide
theorem test_dab_add : regFcw 0 (run [0xB080] (start 0xC000 [(0, 0x7D)] [])) = some (0x83, 0xC020) := by decide
theorem test_dab_sub : regFcw 0 (run [0xB080] (start 0xC08C [(0, 0xEE)] [])) = some (0x88, 0xC0AC) := by decide
theorem test_mult : regFcw 3 (run [0x1902, 0x0190] (start 0xC000 [(3, 100)] [])) = some (0x9C40, 0xC080) := by decide
theorem test_mult_negative : regs2 2 3 (run [0x1902, 2] (start 0xC000 [(3, 0xFFFF)] [])) = some (0xFFFF, 0xFFFE) := by decide
theorem test_multl : regs2 6 7 (run [0x1804, 1, 0] (start 0xC000 [(7, 3)] [])) = some (3, 0) := by decide
theorem test_div : regs2 2 3 (run [0x9B52] (start 0xC000 [(2, 0xFFFF), (3, 0xFFF9), (5, 2)] [])) = some (0xFFFF, 0xFFFD) := by
  decide
theorem test_div_flags : regFcw 3 (run [0x9B52] (start 0xC0F0 [(3, 7), (5, 0xFFFE)] [])) = some (0xFFFD, 0xC020) := by decide
theorem test_div_by_zero : (run [0x9B52] (start 0xC000 [(2, 0x1234), (3, 0x5678)] [])).map
    (fun t => (readLong 2 t, t.fcw.c, t.fcw.z, t.fcw.pv)) = some (0x12345678, false, true, true) := by decide
theorem test_divl : regs2 5 7 (run [0x9A24] (start 0xC000 [(6, 0x000F), (7, 0x4240), (3, 1000)] [])) = some (0, 0x03E8) := by
  decide
theorem test_extsb : regFcw 4 (run [0xB140] (start 0xC0FC [(4, 0x1280)] [])) = some (0xFF80, 0xC0FC) := by decide
theorem test_exts : regs2 6 7 (run [0xB16A] (start 0xC000 [(6, 0xAAAA), (7, 0x7FFF)] [])) = some (0, 0x7FFF) := by decide
theorem test_extsl : regs2 4 5 (run [0xB147] (start 0xC000 [(6, 0x8000)] [])) = some (0xFFFF, 0xFFFF) := by decide

theorem test_andb_parity : regFcw 1 (run [0x0609, 0x0F0F] (start 0xC000 [(1, 0x00F3)] [])) = some (3, 0xC010) := by decide
theorem test_and_keeps_pv : regFcw 1 (run [0x0701, 0x0F0F] (start 0xC010 [(1, 0xF0F0)] [])) = some (0, 0xC050) := by decide
theorem test_com : regFcw 3 (run [0x8D30] (start 0xC000 [(3, 0x00FF)] [])) = some (0xFF00, 0xC020) := by decide
theorem test_orb_odd : regFcw 1 (run [0x0409, 0x0606] (start 0xC010 [(1, 1)] [])) = some (7, 0xC000) := by decide
theorem test_xor : regFcw 1 (run [0x8911] (start 0xC000 [(1, 0x1234)] [])) = some (0, 0xC040) := by decide
theorem test_testb : regFcw 1 (run [0x8C94] (start 0xC000 [(1, 0x81)] [])) = some (0x81, 0xC030) := by decide
theorem test_testl : regCZS 4 (run [0x9C48] (start 0xC000 [(4, 0x8000)] [])) = some (0x8000, false, false, true) := by decide
theorem test_tcc : regFcw 2 (run [0xAF26] (start 0xC040 [(2, 0xFFFE)] [])) = some (0xFFFF, 0xC040) := by decide
theorem test_tcc_false : regFcw 2 (run [0xAF26] (start 0xC000 [(2, 0xFFFF)] [])) = some (0xFFFF, 0xC000) := by decide
theorem test_bit : regFcw 1 (run [0xA712] (start 0xC000 [(1, 8)] [])) = some (8, 0xC040) := by decide
theorem test_resb : regFcw 2 (run [0xA2A7] (start 0xC000 [(2, 0x00FF)] [])) = some (0x007F, 0xC000) := by decide
theorem test_set_dynamic : regFcw 5 (run [0x2506, 0x0500] (start 0xC000 [(6, 0x001F)] [])) = some (0x8000, 0xC000) := by decide
theorem test_setb_dynamic : regFcw 5 (run [0x2406, 0x0D00] (start 0xC000 [(6, 0x000B)] [])) = some (8, 0xC000) := by decide
theorem test_tsetb : memReg 0x2000 1 (run [0x4C06, 0x8000, 0x2000] (start 0xC000 [] [(0x2000, 0x0011)])) =
    some (0xFF11, 0) := by decide
theorem test_tset : regFcw 1 (run [0x8D16] (start 0xC020 [(1, 0x7FFF)] [])) = some (0xFFFF, 0xC000) := by decide

theorem test_rl : regFcw 1 (run [0xB310] (start 0xC000 [(1, 0x8001)] [])) = some (3, 0xC090) := by decide
theorem test_rl_two : regFcw 1 (run [0xB312] (start 0xC000 [(1, 1)] [])) = some (4, 0xC000) := by decide
theorem test_rlcb : regFcw 0 (run [0xB288] (start 0xC000 [(0, 0x80)] [])) = some (0, 0xC0D0) := by decide
theorem test_rr : regFcw 1 (run [0xB314] (start 0xC000 [(1, 1)] [])) = some (0x8000, 0xC0B0) := by decide
theorem test_rrc : regFcw 2 (run [0xB32C] (start 0xC080 [] [])) = some (0x8000, 0xC030) := by decide
theorem test_rldb : (run [0xBE91] (start 0xC000 [(1, 0x0ABC)] [])).map (readWord 1) = some 0x0BCA := by decide
theorem test_rrdb : (run [0xBC91] (start 0xC000 [(1, 0x0BCA)] [])).map (readWord 1) = some 0x0ABC := by decide
theorem test_sla : regFcw 1 (run [0xB319, 1] (start 0xC000 [(1, 0x4001)] [])) = some (0x8002, 0xC0B0 - 0x80) := by decide
theorem test_sla_keeps_sign : regFcw 1 (run [0xB319, 1] (start 0xC000 [(1, 0xC000)] [])) = some (0x8000, 0xC0A0) := by decide
theorem test_sllb : regCZS 3 (run [0xB2B1, 1] (start 0xC000 [(3, 0x81)] [])) = some (2, true, false, false) := by decide
theorem test_slll : (run [0xB325, 1] (start 0xC000 [(3, 0x8000)] [])).map (readLong 2) = some 0x00010000 := by decide
theorem test_sra : regFcw 1 (run [0xB319, 0xFFFF] (start 0xC000 [(1, 0x8003)] [])) = some (0xC001, 0xC0A0) := by decide
theorem test_srab : regFcw 1 (run [0xB219, 0x00FF] (start 0xC000 [(1, 0x8100)] [])) = some (0xC000, 0xC0A0) := by decide
theorem test_srll : (run [0xB325, 0xFFFF] (start 0xC000 [(2, 0x8000), (3, 1)] [])).map (readLong 2) = some 0x40000000 := by
  decide
theorem test_sda : regFcw 1 (run [0xB31B, 0x0200] (start 0xC000 [(1, 0xFF00), (2, 0xFFFC)] [])) = some (0xFFF0, 0xC020) := by
  decide
theorem test_sdl : regCZS 1 (run [0xB313, 0x0200] (start 0xC000 [(1, 0xF0), (2, 4)] [])) = some (0x0F00, false, false, false) := by
  decide

theorem test_call : (run [0x5F00, 0x8200, 0x4000] (start 0xC000 [(15, 0x8000)] [])).map (fun t => (t.pc, readWord 15 t)) =
    some (⟨2, 0x4000⟩, 0x7FFC) := by decide
theorem test_calr : pcOf (run [0xD800] (start 0xC000 [(15, 0x8000)] [])) = some ⟨1, 0x1202⟩ := by decide
theorem test_ret : (run [0x9E08] (start 0xC000 [(15, 0x7FFC)] [(0x7FFC, 0x0100), (0x7FFE, 0x0206)])).map
    (fun t => (t.pc, readWord 15 t)) = some (⟨1, 0x0206⟩, 0x8000) := by decide
theorem test_ret_not_taken : pcOf (run [0x9E06] (start 0xC000 [] [])) = some ⟨1, 0x0202⟩ := by decide
theorem test_djnz : (run [0xF383] (start 0xC000 [(3, 2)] [])).map (fun t => (t.pc, readWord 3 t)) = some (⟨1, 0x01FC⟩, 1) := by
  decide
theorem test_djnz_ends : (run [0xF383] (start 0xC000 [(3, 1)] [])).map (fun t => (t.pc, readWord 3 t)) =
    some (⟨1, 0x0202⟩, 0) := by decide
theorem test_dbjnz : (run [0xF903] (start 0xC000 [(1, 0x5501)] [])).map (fun t => (t.pc, readWord 1 t)) =
    some (⟨1, 0x0202⟩, 0x5500) := by decide
theorem test_jp : pcOf (run [0x1E26] (start 0xC040 [(2, 0x0300), (3, 0x1000)] [])) = some ⟨3, 0x1000⟩ := by decide
theorem test_jr : pcOf (run [0xE880] (start 0xC000 [] [])) = some ⟨1, 0x0102⟩ := by decide

theorem test_cpd : (run [0xBB28, 0x0106] (start 0xC000 [(0, 5), (3, 0x1000), (1, 3)] [(0x1000, 5)])).map
    (fun t => (t.fcw.z, t.fcw.pv, readWord 3 t, readWord 1 t)) = some (true, false, 0x0FFE, 2) := by decide
theorem test_cpib : (run [0xBA20, 0x0186] (start 0xC000 [(0, 0x41), (3, 0x1000), (1, 1)] [(0x1000, 0x4200)])).map
    (fun t => (t.fcw.z, t.fcw.pv, readWord 3 t, readWord 1 t)) = some (false, true, 0x1001, 0) := by decide
theorem test_cpsirb : (run [0xBA46, 0x012E] (start 0xC000 [(3, 0x1000), (5, 0x2000), (1, 4)] [(0x1000, 0x4142), (0x2000, 0x4142)])).map
    (fun t => (t.fcw.z, t.pc, readWord 3 t, readWord 5 t)) = some (false, ⟨1, 0x0200⟩, 0x1001, 0x2001) := by decide
theorem test_ldi : memReg 0x2000 3 (run [0xBB41, 0x0128] (start 0xC000 [(3, 0x2000), (5, 0x1000), (1, 5)] [(0x1000, 0xCAFE)])) =
    some (0xCAFE, 0x2002) := by decide
theorem test_lddr : (run [0xBB89, 0x0120] (start 0xC000 [(3, 0x2002), (9, 0x1002), (1, 2)] [(0x1002, 0xBBBB)])).map
    (fun t => (peek .word ⟨0, 0x2002⟩ t, t.pc, readWord 9 t, t.fcw.pv)) = some (0xBBBB, ⟨1, 0x0200⟩, 0x1000, false) := by decide
theorem test_trib : (run [0xB820, 0x0640] (start 0xC000 [(3, 0x1000), (5, 0x3000), (6, 2)] [(0x1000, 0x4177), (0x3040, 0x0061)])).map
    (fun t => (peek .word ⟨0, 0x1000⟩ t, readWord 3 t, readWord 6 t)) = some (0x6177, 0x1001, 1) := by decide
theorem test_trtirb : (run [0xB826, 0x064E] (start 0xC0F0 [(3, 0x1002), (5, 0x3000), (6, 2)] [(0x1002, 0x2043), (0x3020, 0x0100)])).map
    (fun t => (readByte 1 t, word t.fcw, readWord 3 t, t.pc)) = some (1, 0xC0A0, 0x1003, ⟨1, 0x0204⟩) := by decide
theorem test_block_overlap : stop [0xBB21, 0x0120] (start 0xC000 [] []) = some .blockOverlap := by decide

theorem test_in : (run [0x3B14, 0x0040] (start 0xC000 [] [])).map (fun t => match t.trace with
    | [.inp sp port w _] => decide (sp = .standard ∧ port = 0x0040 ∧ w = .word ∧ t.pc = ⟨1, 0x0204⟩)
    | _ => false) = some true := by decide
theorem test_outb : (run [0x3A86, 0x0010] (start 0xC000 [(0, 0x1241)] [])).map State.trace =
    some [.out .standard 0x0010 .byte 0x41] := by decide
theorem test_outi : (run [0x3B22, 0x0148] (start 0xC000 [(3, 0x1000), (4, 0x10), (1, 2)] [(0x1000, 0x4869)])).map
    (fun t => (t.trace, readWord 3 t, readWord 1 t)) = some ([.out .standard 0x0010 .word 0x4869], 0x1002, 1) := by decide

theorem test_comflg : regFcw 0 (run [0x8DC5] (start 0xC080 [] [])) = some (0, 0xC040) := by decide
theorem test_resflg : regFcw 0 (run [0x8D83] (start 0xC0FC [] [])) = some (0, 0xC07C) := by decide
theorem test_setflg : regFcw 0 (run [0x8D31] (start 0xC000 [] [])) = some (0, 0xC030) := by decide
theorem test_di : regFcw 0 (run [0x7C01] (start 0xC000 [] [])) = some (0, 0xC000) := by decide
theorem test_di_exec : (match exec (.di true false) (start 0xD800 [] []) with
    | .next t => word t.fcw
    | _ => 0) = 0xC800 := by decide
theorem test_ei : regFcw 0 (run [0x7C04] (start 0xC000 [] [])) = some (0, 0xD800) := by decide
theorem test_halt : (run [0x7A00] (start 0xC000 [] [])).map (fun t => (t.halted, t.pc)) = some (true, ⟨1, 0x0202⟩) := by decide
theorem test_ldctl_fcw : regFcw 0 (run [0x7D1A] (start 0xC0FC [(1, 0xD800)] [])) = some (0, 0xD800) := by decide
theorem test_ldctl_seg_zero : stop [0x7D1A] (start 0xC000 [(1, 0x4000)] []) = some .segZero := by decide
theorem test_ldctl_nspoff : (run [0x7D1F] (start 0xC000 [(1, 0x6000), (15, 0x8000)] [])).map
    (fun t => (t.r15n, readWord 15 t)) = some (0x6000, 0x8000) := by decide
theorem test_ldctlb : regFcw 0 (run [0x8C89] (start 0xC03C [(0, 0xC0)] [])) = some (0x00C0, 0xC0C0) := by decide
theorem test_iret : (run [0x7B00] (start 0xC000 [(15, 0x7FF8)] [(0x7FF8, 0x7F05), (0x7FFA, 0x8000), (0x7FFC, 0x0100), (0x7FFE, 0x0204)])).map
    (fun t => (word t.fcw, t.pc, t.r15s)) = some (0x8000, ⟨1, 0x0204⟩, 0x8000) := by decide
theorem test_ldps : (run [0x7900, 0x8000, 0x0400] (start 0xC000 [] [(0x0402, 0x8000), (0x0404, 0x0200), (0x0406, 0x1000)])).map
    (fun t => (word t.fcw, t.pc)) = some (0x8000, ⟨2, 0x1000⟩) := by decide
theorem test_mset : (run [0x7B08] (start 0xC000 [] [])).map State.mo = some true := by decide
theorem test_nop : run [0x8D07] (start 0xC000 [(3, 5)] []) =
    some { withWords (start 0xC000 [(3, 5)] []) [0x8D07] with pc := ⟨1, 0x0202⟩ } := by decide

theorem test_misaligned : stop [0x6101, 0x8000, 0x2001] (start 0xC000 [] []) = some .misaligned := by decide
theorem test_store_into_next_word : (run [0x6F01, 0x8100, 0x0206] (start 0xC000 [] [])).map (fun t => (t.stale, match step t with
    | .refused r => some r
    | _ => none)) = some (true, some .storeIntoNextWord) := by decide

/-- A system call: the entry at PSAP + 24, the program status area below the stack, R15 down by 8. -/
theorem test_sc : (run [0x7F05] { start 0xC000 [(15, 0x8000)] [(0x111A, 0xC804), (0x111C, 0x8502), (0x111E, 0x1234)] with
    psap := ⟨0, 0x1100⟩ }).map (fun t => (t.pc, word t.fcw, t.r15s)) = some (⟨5, 0x1234⟩, 0xC804, 0x7FF8) := by decide
/-- A privileged instruction in normal mode: the entry at PSAP + 16, in system mode. -/
theorem test_privileged : (run [0x7A00] { start 0x8000 [] [(0x1112, 0xC804), (0x1114, 0x8502), (0x1116, 0x1234)] with
    psap := ⟨0, 0x1100⟩, r15s := 0x8000, r15n := 0x4000 }).map
    (fun t => (t.pc, word t.fcw, t.r15s, t.r15n, t.halted)) = some (⟨5, 0x1234⟩, 0xC804, 0x7FF8, 0x4000, false) := by decide
/-- A vectored interrupt: FCW at PSAP + 58, the PC of vector 2 at PSAP + 64. -/
theorem test_vectored : (match step { start 0xD000 [(15, 0x8000)] [(0x113A, 0xC804), (0x1140, 0x8502), (0x1142, 0x1234)] with
    psap := ⟨0, 0x1100⟩, halted := true, inputs := [⟨false, false, false, true, true, 0x5602⟩] } with
    | .next t => some (t.pc, word t.fcw, t.r15s, t.halted)
    | _ => none) = some (⟨5, 0x1234⟩, 0xC804, 0x7FF8, false) := by decide
theorem test_reset : (match step (start 0xC000 [] [(2, 0xC000), (4, 0x0300), (6, 0x0010)] |> fun s => { s with resetReq := true }) with
    | .next t => some (word t.fcw, t.pc)
    | _ => none) = some (0xC000, ⟨3, 0x0010⟩) := by decide

/- Witnesses: for every obligation with hypotheses, states and operands that meet them, clause by clause, at
boundary values. -/

/-- The outcome is a next state that `p` holds of. -/
def nextHas {α : Type} (o : Res α) (p : α → Bool) : Bool :=
  match o with
  | .next t => p t
  | _ => false

theorem next_of_nextHas {α : Type} {o : Res α} {p : α → Bool} (h : nextHas o p = true) : ∃ t, o = .next t ∧ p t = true := by
  cases o with
  | next t => exact ⟨t, rfl, h⟩
  | fault _ => cases h
  | refused _ => cases h

theorem next_of_answers {α : Type} {o : Res α} (h : nextHas o (fun _ => true) = true) : ∃ t, o = .next t :=
  (next_of_nextHas h).imp fun _ ht => ht.1

/-- RR2 points to the last word of segment 1, RR4 to the start of segment 127, RR6 to the last byte of segment 2; the
count in R1 is one; the stack is at offset 0 of segment 3. -/
def edge : State :=
  start 0xC000 [(1, 1), (2, 0x0100), (3, 0xFFFE), (4, 0x7F00), (6, 0x0200), (7, 0xFFFF), (14, 0x0300)] []

/-- The same in normal mode. -/
def edgeNormal : State := { edge with fcw := { edge.fcw with sn := false } }

/-- Source operands of every form and width, at the ends of segments. -/
def sourcesReady (s : State) : Bool :=
  srcReady .byte (.imm 0xFF#8) s && srcReady .word (.reg 15) s && srcReady .long (.reg 14) s &&
  srcReady .byte (.mem (.ir 6)) s && srcReady .word (.mem (.ir 2)) s && srcReady .long (.mem (.ir 2)) s &&
  srcReady .word (.mem (.dir (.da (.long 127 0xFFFE)))) s && srcReady .byte (.mem (.dir (.idx 3 (.short 0 255)))) s

def operandsReady (s : State) : Bool :=
  opdReady .byte (.reg 15) s && opdReady .byte (.mem (.ir 6)) s && opdReady .word (.mem (.ir 2)) s &&
  opdReady .long (.mem (.ir 2)) s

def operandsWritable (s : State) : Bool :=
  opdWritable .byte (.reg 15) s && opdWritable .byte (.mem (.ir 6)) s && opdWritable .word (.mem (.ir 2)) s &&
  opdWritable .long (.mem (.ir 2)) s && opdWritable .word (.mem (.dir (.idx 3 (.long 0 0)))) s

/-- A two-word instruction that wraps at the end of its segment. -/
def wrapped : State := withWords { edge with pc := ⟨1, 0xFFFE⟩ } [0x0102, 5]

theorem witness_StepRunsDecoded : AtInstruction (sample wrapped) ∧
    ∃ rest, decodeWords (fetchWords 4 (sample wrapped).pc (sample wrapped)) = .ok (.add 2 (.imm 5), rest) := by
  refine ⟨by unfold AtInstruction; decide, [0, 0], by decide⟩
theorem witness_StepRunsEncoded : AtInstruction (sample wrapped) ∧ (Instr.add 2 (.imm 5)).wf = true ∧
    WordsAt (sample wrapped).pc (encode (.add 2 (.imm 5))) (sample wrapped) := by
  refine ⟨by unfold AtInstruction; decide, by decide, by unfold WordsAt; decide⟩
theorem witness_DecodeEncode : Instr.wf (.slal 14 32) = true ∧ Instr.wf (.ldmStore (.dir (.idx 15 (.long 127 0xFFFF))) 15 15) = true := by
  decide
theorem witness_EncodeDecode : decodeWords [0x5C79, 0x0F0F, 0xFF00, 0xFFFF, 0x1234] =
    .ok (.ldmStore (.dir (.idx 7 (.long 127 0xFFFF))) 15 15, [0x1234]) := by decide
theorem witness_InvariantHeld : Inv wrapped ∧ ∃ t, step wrapped = .next t :=
  ⟨by unfold Inv; decide, next_of_answers (by decide)⟩
theorem witness_CanonicalMemoryUnique : Memory.wf [(0, 1), (8388607, 255)] = true ∧
    ∀ a, Memory.read [(0, 1), (8388607, 255)] a = Memory.read [(0, 1), (8388607, 255)] a := ⟨by decide, fun _ => rfl⟩
theorem witness_StoredBytesReadBack :
    (∃ t, store Guard.none .byte ⟨1, 0xFFFF⟩ 0x12#8 edge = .next t) ∧
    (∃ t, store Guard.none .word ⟨1, 0xFFFE⟩ 0x1234#16 edge = .next t) ∧
    ∃ t, store Guard.none .long ⟨1, 0xFFFE⟩ 0x12345678#32 edge = .next t :=
  ⟨next_of_answers (by decide), next_of_answers (by decide), next_of_answers (by decide)⟩
/-- Segment 1 without memory, segment 2 with ROM. -/
def holes : State := { edge with map := [⟨0x10000, 0x10000, .absent⟩, ⟨0x20000, 0x10000, .rom⟩] }
theorem witness_AccessStops : (1#16).toNat % 2 = 1 ∧
    (⟨1, 0⟩ : Addr) ∈ span .word ⟨1, 0⟩ ∧ readable holes ⟨1, 0⟩ = false ∧ writable holes ⟨1, 0⟩ = false ∧
    (⟨1, 0xFFFF⟩ : Addr) ∈ span .byte ⟨1, 0xFFFF⟩ ∧ readable holes ⟨1, 0xFFFF⟩ = false ∧
    (⟨2, 1⟩ : Addr) ∈ span .long ⟨2, 0xFFFE⟩ ∧ writable holes ⟨2, 1⟩ = false := by decide
theorem witness_RegisterViews : (14 : Reg) ∉ homes .byte 7 ∧ (15 : Reg) ∉ homes .word 14 ∧ (0 : Reg) ∉ homes .long 14 := by decide
theorem witness_RegisterBanks : edge.fcw.sn = true ∧ edgeNormal.fcw.sn = false := by decide
/-- Segment 1 is populated up to the word at offset 2, which holds `w`. -/
def cutOff (w : Word) : State := { withWords { edge with pc := ⟨1, 2⟩ } [w] with map := [⟨0x10004, 2, .absent⟩] }

/-- ADDL RR1,#imm is reserved, whatever words follow its first one (30_encoding.md R132). -/
theorem test_reserved_first_word (ws : List Word) : decodeWords (0x1601 :: ws) = .error (.reserved .field) := by
  match ws with
  | [] => decide
  | [_] => rfl
  | _ :: _ :: _ => rfl

/-- Where the next word is not populated, a reserved first word is refused and ADDL RR2,#imm has no step
(30_encoding.md R130, R133, 20_memory.md R64). -/
theorem test_fetch_cut_off :
    fetch (cutOff 0x1601) = .refused (.reservedEncoding .field) ∧ fetch (cutOff 0x1602) = .fault .absentFetch :=
  ⟨rfl, rfl⟩

theorem witness_FetchStops :
    ([edge, { edge with stale := true }, { edge with pc := ⟨1, 1⟩ }, withWords edge [0x3600], cutOff 0x1601,
        { holes with pc := ⟨1, 0xFFFE⟩ }].all
      fun s => !(sample s).resetReq && (sample s).fcw.seg && decide (pendingEvent (sample s) = none) && !(sample s).halted) = true ∧
    decodeWords (fetchWords 4 (withWords edge [0x3600]).pc (withWords edge [0x3600])) = .error (.reserved .opcode) ∧
    (canRead .word (cutOff 0x1601).pc (cutOff 0x1601) = true ∧
      ∀ ws i rest, decodeWords (peek .word (cutOff 0x1601).pc (cutOff 0x1601) :: ws) ≠ .ok (i, rest)) ∧
    canRead .word ⟨1, 0xFFFE⟩ holes = false := by
  refine ⟨by decide, by decide, ⟨by decide, ?_⟩, by decide⟩
  intro ws i rest h
  rw [show peek .word (cutOff 0x1601).pc (cutOff 0x1601) = 0x1601 by decide, test_reserved_first_word] at h
  cases h
theorem witness_AdditionResults : sourcesReady edge = true := by decide
theorem witness_SubtractionResults : sourcesReady edge = true := by decide
theorem witness_CompareResults : sourcesReady edge = true ∧ canRead .byte (memAddr (.ir 6) edge) edge = true ∧
    canRead .word (memAddr (.ir 2) edge) edge = true := by decide
theorem witness_IncrementDecrementResults : operandsWritable edge = true := by decide
theorem witness_NegateComplementResults : operandsWritable edge = true := by decide
theorem witness_MultiplyResults : sourcesReady edge = true := by decide
/-- A divisor of zero; the least quotient that fits; the least one that does not. -/
theorem witness_DivideResults : sourcesReady edge = true ∧
    (srcValue .word (.imm 0) edge).toInt = 0 ∧
    ((srcValue .word (.imm 1) edge).toInt ≠ 0 ∧ (readLong 2 (writeLong 2 0xFFFF8000 edge)).toInt = -32768) ∧
    fitsSigned 16 ((-32768 : Int).tdiv 1) ∧ (readLong 2 (writeLong 2 0x8000 edge)).toInt = 32768 ∧
    ¬ fitsSigned 16 ((32768 : Int).tdiv 1) ∧
    (srcValue .long (.imm 0) edge).toInt = 0 ∧ (srcValue .long (.imm 1) edge).toInt = 1 ∧
    (readQuad 4 (writeQuad 4 0xFFFFFFFF80000000 edge)).toInt = -2147483648 ∧ fitsSigned 32 ((-2147483648 : Int).tdiv 1) ∧
    (readQuad 4 (writeQuad 4 0x80000000 edge)).toInt = 2147483648 ∧ ¬ fitsSigned 32 ((2147483648 : Int).tdiv 1) := by
  unfold fitsSigned; decide
theorem witness_DecimalAdjustResult :
    (∃ row ∈ dabRows, dabFits row (readByte 8 (writeByte 8 0x9A edge)) (writeByte 8 0x9A edge).fcw) ∧
    ∀ row ∈ dabRows, ¬ dabFits row (readByte 8 (writeByte 8 0xFA edge)) { edge.fcw with d := true } := by
  unfold dabFits; decide
theorem witness_DecimalAdjustCorrects : (0 < 100 ∧ 99 < 100) ∧ bcd 99 = 0x99 := by decide
theorem witness_LogicalResults : sourcesReady edge = true := by decide
theorem witness_TestResults : operandsReady edge = true := by decide
theorem witness_BitWriteResults : operandsWritable edge = true := by decide
theorem witness_ClearExchangeResults : operandsWritable edge = true ∧ (1 : Reg) ≠ 2 := by decide
theorem witness_LoadResults : sourcesReady edge = true ∧ canRead .long (offsetBy (addressIn 2 edge) 0) edge = true ∧
    canRead .word (offsetBy (addressIn 4 edge) (readWord 3 edge)) edge = true ∧
    canRead .byte (offsetBy (after (.ldrbLoad 1 0xFDFB) edge) 0xFDFB) edge = true ∧
    offsetBy (after (.ldrbLoad 1 0xFDFB) edge) 0xFDFB = ⟨1, 0xFFFF⟩ := by decide
theorem witness_StoreResults : canWrite .byte (memAddr (.ir 6) edge) edge = true ∧
    canWrite .word (memAddr (.ir 2) edge) edge = true ∧ canWrite .long (memAddr (.ir 2) edge) edge = true ∧
    canWrite .long (offsetBy (addressIn 4 edge) (readWord 3 edge)) edge = true ∧
    canWrite .word (offsetBy (after (.ldrStore 0xFDFA 1) edge) 0xFDFA) edge = true := by decide
/-- The pushes wrap below offset 0 of segment 3. -/
theorem witness_PushResults : canWrite .word (offsetBy (addressIn 14 edge) (-2)) edge = true ∧
    (∃ r ∈ opdRegs .word (.reg 15), r = 14 ∨ r = 14 + 1) ∧ ¬ (∃ r ∈ opdRegs .word (.mem (.ir 2)), r = 14 ∨ r = 14 + 1) ∧
    opdReady .word (.mem (.ir 2)) edge = true ∧ (∃ r ∈ opdRegs .long (.reg 14), r = 14 ∨ r = 14 + 1) ∧
    ¬ (∃ r ∈ opdRegs .long (.reg 12), r = 14 ∨ r = 14 + 1) ∧ canWrite .long (offsetBy (addressIn 14 edge) (-4)) edge = true := by
  decide
theorem witness_PopResults : canRead .word (addressIn 2 edge) edge = true ∧ canRead .long (addressIn 2 edge) edge = true ∧
    (∃ r ∈ opdRegs .word (.reg 3), r = 2 ∨ r = 2 + 1) ∧ (∃ r ∈ opdRegs .long (.mem (.ir 2)), r = 2 ∨ r = 2 + 1) ∧
    ¬ (∃ r ∈ opdRegs .word (.mem (.ir 4)), r = 2 ∨ r = 2 + 1) ∧ ¬ (∃ r ∈ opdRegs .long (.reg 4), r = 2 ∨ r = 2 + 1) ∧
    opdWritable .word (.mem (.ir 4)) edge = true ∧ opdWritable .long (.reg 4) edge = true := by decide
/-- Sixteen registers from an address of its own; an index register or the last register of the pair among them. -/
theorem witness_LoadMultipleResult :
    (∃ r ∈ memRegs (.ir 2), ∃ k ≤ (2 : BitVec 4).toNat, r = regAt 1 k) ∧
    (∃ r ∈ memRegs (.dir (.idx 1 (.short 0 0))), ∃ k ≤ (15 : BitVec 4).toNat, r = regAt 2 k) ∧
    (∀ r ∈ memRegs (.ir 2), ∀ k ≤ (13 : BitVec 4).toNat, r ≠ regAt 4 k) ∧
    (∀ k ≤ (13 : BitVec 4).toNat, canRead .word (wordAt (memAddr (.ir 2) edge) k) edge = true) ∧
    (∀ r ∈ memRegs (.dir (.da (.long 1 0xFFFE))), ∀ k ≤ (15 : BitVec 4).toNat, r ≠ regAt 15 k) ∧
    ∀ k ≤ (15 : BitVec 4).toNat, canRead .word (wordAt (memAddr (.dir (.da (.long 1 0xFFFE))) edge) k) edge = true := by
  refine ⟨⟨2, by decide, 1, by decide, by decide⟩, ⟨1, by decide, 15, by decide, by decide⟩, by decide, by decide,
    by decide, by decide⟩
theorem witness_StoreMultipleResult :
    ∀ k ≤ (15 : BitVec 4).toNat, canWrite .word (wordAt (memAddr (.ir 2) edge) k) edge = true := by decide
theorem witness_DigitRotateResults : (0 : Reg) ≠ 8 ∧ Instr.rldb 8 8 ∈ [Instr.rldb 8 8, Instr.rrdb 8 8] := by decide
/-- Counts 0 to W to the left, 1 to W to the right. -/
theorem witness_StaticShiftResults : (0 ≤ Width.bits .byte ∧ 8 ≤ Width.bits .byte) ∧ 16 ≤ Width.bits .word ∧
    32 ≤ Width.bits .long ∧ (1 ≤ 1 ∧ 1 ≤ Width.bits .byte) ∧ (1 ≤ 8 ∧ 8 ≤ Width.bits .byte) ∧
    (1 ≤ 16 ∧ 16 ≤ Width.bits .word) ∧ (1 ≤ 32 ∧ 32 ≤ Width.bits .long) := by decide
/-- The counts -W - 1, -W, -1, 0, W, W + 1 for words; the ends of each range for bytes and long words. -/
theorem witness_DynamicShiftResults :
    ([(0xFFEF, -17), (0xFFF0, -16), (0xFFFF, -1), (0, 0), (16, 16), (17, 17), (0xFFF7, -9), (0xFFF8, -8), (8, 8), (9, 9),
      (0xFFDF, -33), (0xFFE0, -32), (32, 32), (33, 33)] : List (Word × Int)).all
      (fun x => decide ((readWord 5 (writeWord 5 x.1 edge)).toInt = x.2)) = true := by decide
theorem witness_CallResults : canWrite .long (offsetBy (addressIn 14 edge) (-4)) edge = true ∧
    canWrite .long (offsetBy (addressIn 14 edgeNormal) (-4)) edgeNormal = true := by decide
theorem witness_ReturnResults : cond .eq edge.fcw = false ∧ cond .ne edge.fcw = true ∧
    canRead .long (addressIn 14 edge) edge = true ∧ ∃ t, exec (.call (.ir 2)) edge = .next t :=
  ⟨by decide, by decide, by decide, next_of_answers (by decide)⟩

theorem witness_BlockCompareResults : ¬ NoOverlap [[2, 2 + 1], [3], [5]] ∧ NoOverlap [[2, 2 + 1], [1], [5]] ∧
    homes .word 5 = [5] ∧ homes .byte 13 = [5] ∧ homes .byte 5 = [5] ∧ canRead .word (addressIn 2 edge) edge = true ∧
    canRead .byte (addressIn 6 edge) edge = true := by unfold NoOverlap; decide
theorem witness_StringCompareResults : ¬ NoOverlap [[2, 2 + 1], [2, 2 + 1], [1]] ∧ NoOverlap [[2, 2 + 1], [4, 4 + 1], [1]] ∧
    NoOverlap [[6, 6 + 1], [4, 4 + 1], [1]] ∧ canRead .word (addressIn 2 edge) edge = true ∧
    canRead .word (addressIn 4 edge) edge = true ∧ canRead .byte (addressIn 6 edge) edge = true ∧
    canRead .byte (addressIn 4 edge) edge = true := by unfold NoOverlap; decide
theorem witness_BlockMoveResults : ¬ NoOverlap [[2, 2 + 1], [4, 4 + 1], [5]] ∧ NoOverlap [[2, 2 + 1], [4, 4 + 1], [1]] ∧
    NoOverlap [[6, 6 + 1], [4, 4 + 1], [1]] ∧ canWrite .word (addressIn 2 edge) edge = true ∧
    canRead .word (addressIn 4 edge) edge = true ∧ canWrite .byte (addressIn 6 edge) edge = true ∧
    canRead .byte (addressIn 4 edge) edge = true := by unfold NoOverlap; decide
theorem witness_TranslateResults : ¬ NoOverlap [[2, 2 + 1], [4, 4 + 1], [1], [1]] ∧
    NoOverlap [[6, 6 + 1], [2, 2 + 1], [8], [1]] ∧ canWrite .byte (addressIn 6 edge) edge = true ∧
    canRead .byte (addressIn 6 edge) edge = true ∧ canRead .byte (tableEntry 6 2 edge) edge = true := by
  unfold NoOverlap; decide
theorem witness_PortResults : edge.fcw.sn = true := by decide
theorem witness_BlockInputResults : edge.fcw.sn = true ∧ ¬ NoOverlap [[2, 2 + 1], [3], [1]] ∧
    NoOverlap [[2, 2 + 1], [4], [1]] ∧ NoOverlap [[6, 6 + 1], [4], [1]] ∧ canWrite .word (addressIn 2 edge) edge = true ∧
    canWrite .byte (addressIn 6 edge) edge = true := by unfold NoOverlap; decide
theorem witness_BlockOutputResults : edge.fcw.sn = true ∧ ¬ NoOverlap [[4], [2, 2 + 1], [4]] ∧
    NoOverlap [[4], [2, 2 + 1], [1]] ∧ NoOverlap [[4], [6, 6 + 1], [1]] ∧ canRead .word (addressIn 2 edge) edge = true ∧
    canRead .byte (addressIn 6 edge) edge = true := by unfold NoOverlap; decide
theorem witness_FlagInstructionResults : (1 : Reg) ≠ 9 := by decide
theorem witness_SystemControlResults : edge.fcw.sn = true := by decide
theorem witness_MultiMicroResults : edge.fcw.sn = true := by decide
theorem witness_ControlRegisterResults : edge.fcw.sn = true ∧ (readWord 2 (writeWord 2 0x7FFF edge)).getLsbD 15 = false ∧
    (readWord 2 (writeWord 2 0x8000 edge)).getLsbD 15 = true := by decide
/-- A program status block across the end of segment 1, and one with SEG = 0. -/
def status (fcw : Word) : State := poke .word ⟨1, 0⟩ fcw { edge with r14s := 0x0100, r15s := 0xFFFE }
theorem witness_StatusLoadResults : (status 0x8000).fcw.sn = true ∧
    statusReady (addrOf ((status 0x8000).r14s ++ (status 0x8000).r15s)) (status 0x8000) = true ∧
    (canRead .word ⟨1, 0xFFFE⟩ (status 0x7FFF) = true ∧ canRead .word ⟨1, 0⟩ (status 0x7FFF) = true ∧
      canRead .long ⟨1, 2⟩ (status 0x7FFF) = true) ∧
    (peek .word (offsetBy (addrOf ((status 0x7FFF).r14s ++ (status 0x7FFF).r15s)) 2) (status 0x7FFF)).getLsbD 15 = false ∧
    statusReady (memAddr (.ir 2) (status 0x8000)) (status 0x8000) = true ∧
    (peek .word (offsetBy (memAddr (.ir 2) (status 0x7FFF)) 2) (status 0x7FFF)).getLsbD 15 = false := by decide

/-- A program status area at (0, 0x1100) for every event, the stack at the start of segment 3. -/
def vectors : State :=
  { start 0xC000 [(14, 0x0300)] ([0x10A, 0x112, 0x11A, 0x122, 0x12A, 0x132, 0x13A].map fun a => (0x1000 + a, 0xC804)) with
    psap := ⟨0, 0x1100⟩ }
def vectorsNormal : State := { vectors with fcw := { vectors.fcw with sn := false } }
theorem witness_TrapResults :
    (entryReady .systemCall (firstWord (.sc 255)) vectors = true ∧ vectors.fcw.sn = true) ∧
    (entryReady .systemCall (firstWord (.sc 255)) vectorsNormal = true ∧ vectorsNormal.fcw.sn = false ∧
      entryReady .privilegedInstruction (firstWord (.sc 255)) vectorsNormal = true) ∧
    ({ vectors with fcw := { vectors.fcw with epa := true } } : State).fcw.epa = true ∧
    (vectors.fcw.epa = false ∧ entryReady .extendedInstruction (firstWord (.epu8F 255 0xFFFF)) vectors = true) ∧
    (isPrivileged .halt = true ∧ entryReady .privilegedInstruction (firstWord .halt) vectorsNormal = true) := by decide
/-- The entry of the system call, below the stack. -/
def callArea (fcw : Word) : State :=
  { start 0xC000 [(14, 0x0300)] [(0x111A, fcw), (0x111C, 0x8502), (0x111E, 0x1234)] with psap := ⟨0, 0x1100⟩ }
theorem witness_TrapEntry : entryReady .vectored 0x56FE vectors = true ∧ entryReady .nmi 0xFFFF vectors = true ∧
    (∃ t, enter Guard.none .systemCall 0x7F05 ⟨1, 0x0202⟩ (callArea 0xC804) = .next t) ∧
    ({ vectors with psap := ⟨0, 0x11FF⟩ } : State).psap.off.extractLsb' 0 8 ≠ 0 ∧
    (vectors.psap.off.extractLsb' 0 8 = 0 ∧ (0x5601#16).getLsbD 0 = true ∧ (frameBytes vectors).all (writable vectors) = true ∧
      aligned .word (frameAt vectors) = true) :=
  ⟨by decide, by decide, next_of_answers (by decide), by decide, by decide⟩
theorem witness_TrapReturnRestores : (callArea 0xC804).fcw.seg = true ∧
    ∃ t, enter Guard.none .systemCall 0x7F05 ⟨1, 0x0202⟩ (callArea 0xC804) = .next t ∧ t.fcw.sn = true :=
  ⟨by decide, next_of_nextHas (p := fun t : State => t.fcw.sn) (by decide)⟩
/-- A state at a boundary: what is pending, what FCW lets through, whether it waits. -/
def boundary (nmi segt vi nvi halted : Bool) (fcw : Word) : State :=
  { start fcw [] [] with nmiPending := nmi, segtReq := segt, viReq := vi, nviReq := nvi, halted := halted }
theorem witness_BoundaryEvents :
    ([boundary true true true true true 0xD800, boundary false true true true true 0xD800,
      boundary false false true true true 0xD800, boundary false false true true true 0xC800,
      boundary false false false true false 0xD800, boundary false false true true true 0xC000,
      { boundary false false false false true 0xD800 with inputs := [⟨false, false, false, false, false, 0⟩] }].map
      fun s => let u := sample s; [u.resetReq, u.fcw.seg, u.nmiPending, u.segtReq, u.viReq && u.fcw.vie,
        u.nviReq && u.fcw.nvie, u.halted]) =
    [[false, true, true, true, true, true, true], [false, true, false, true, true, true, true],
     [false, true, false, false, true, true, true], [false, true, false, false, false, true, true],
     [false, true, false, false, false, true, false], [false, true, false, false, false, false, true],
     [false, true, false, false, false, false, true]] := by decide
theorem witness_ResetStep : (sample State.reset).resetReq = true ∧ canRead .word ⟨0, 2⟩ (sample State.reset) = true ∧
    canRead .word ⟨0, 4⟩ (sample State.reset) = true ∧ canRead .word ⟨0, 6⟩ (sample State.reset) = true ∧
    (peek .word ⟨0, 2⟩ (sample State.reset)).getLsbD 15 = false ∧
    (peek .word ⟨0, 2⟩ (sample (poke .word ⟨0, 2⟩ 0x8000 State.reset))).getLsbD 15 = true := by decide
/-- A jump, and a privileged instruction that traps. -/
theorem witness_NormalModeConfined : edgeNormal.fcw.sn = false ∧ (∃ t, exec (.jp .always (.ir 2)) edgeNormal = .next t) ∧
    (∃ t, exec .halt { callArea 0xC804 with
      fcw := edgeNormal.fcw, mem := edge.mem.write 0x1112 0xC8 |>.write 0x1113 4 |>.write 0x1114 5 |>.write 0x1115 2 |>.write 0x1116 8
        |>.write 0x1117 9 } = .next t) :=
  ⟨by decide, next_of_answers (by decide), next_of_answers (by decide)⟩

end Sys2Proof
end

section
/-! PROOFS. The views of the word registers and the banks of R14 and R15 (10_state.md R22 to R24), and the
invariant at reset (R33). -/

namespace Sys2Proof

open Machine

/-- The fields 0 to 7 name the high bytes, 8 to 15 the low bytes, of the words 0 to 7 (10_state.md R22). -/
theorem byte_fields (n : BitVec 3) :
    byteHome (0#1 ++ n) = 0#1 ++ n ∧ byteHome (1#1 ++ n) = 0#1 ++ n ∧
      (0#1 ++ n : Reg).getLsbD 3 = false ∧ (1#1 ++ n : Reg).getLsbD 3 = true := by
  revert n; decide

/-- RHn is the high byte of Rn (10_state.md R22). -/
theorem readByte_high (n : BitVec 3) (s : State) :
    readByte (0#1 ++ n) s = (readWord (0#1 ++ n) s).extractLsb' 8 8 := by
  obtain ⟨home, _, bit, _⟩ := byte_fields n
  rw [readByte_eq, bit, home]; rfl

/-- RLn is the low byte of Rn (10_state.md R22). -/
theorem readByte_low (n : BitVec 3) (s : State) :
    readByte (1#1 ++ n) s = (readWord (0#1 ++ n) s).extractLsb' 0 8 := by
  obtain ⟨_, home, _, bit⟩ := byte_fields n
  rw [readByte_eq, bit, home]; rfl

/-- The halves of a quad register are its long registers (10_state.md R23). -/
theorem readLong_of_readQuad {r : Reg} {v : Quad} {s : State} (h : readQuad r s = v) :
    readLong r s = v.extractLsb' 32 32 ∧ readLong (r + 2#4) s = v.extractLsb' 0 32 := by
  subst h
  exact ⟨(long_hi _ _).symm, (long_lo _ _).symm⟩

theorem holdsReg_writeReg (w : Width) (d : Reg) (v : BitVec w.bits) (s : State) :
    HoldsReg w d v s (writeReg w d v s) :=
  ⟨readReg_writeReg_same w d v s, by rintro rfl k hk; exact readByte_writeReg k d v s hk⟩

/-- Settles O11: each view is read back through the word registers it is made of. -/
theorem registerViews : Obligations.RegisterViews := by
  refine fun s => ⟨fun n => ⟨readByte_high n s, readByte_low n s⟩, fun w d v => ⟨holdsReg_writeReg w d v s, ?_⟩,
    fun d v => ⟨?_, ?_⟩, fun d v => ⟨readQuad_writeQuad_same d v s, ?_⟩⟩
  · exact fun r hr => readWord_writeReg w r d v s hr
  · exact (readWord_writeLong d d v s).trans (by rw [if_neg (ne_succ d), if_pos rfl])
  · exact (readWord_writeLong (d + 1#4) d v s).trans (if_pos rfl)
  · exact readLong_of_readQuad (readQuad_writeQuad_same d v s)

/-- In system mode R14 and R15 are the system copies (10_state.md R24). -/
theorem readWord_systemBank {s : State} (h : s.fcw.sn = true) : readWord 14 s = s.r14s ∧ readWord 15 s = s.r15s := by
  simp [readWord, h]

/-- In normal mode R14 and R15 are the normal copies (10_state.md R24). -/
theorem readWord_normalBank {s : State} (h : s.fcw.sn = false) : readWord 14 s = s.r14n ∧ readWord 15 s = s.r15n := by
  simp [readWord, h]

/-- Settles O12, mode by mode. -/
theorem registerBanks : Obligations.RegisterBanks := by
  refine fun s r v => ⟨fun h => ?_, fun h => ?_⟩
  · obtain ⟨r14, r15⟩ := readWord_systemBank h
    exact ⟨r14, r15, writeWord_normalBank r v s h⟩
  · obtain ⟨r14, r15⟩ := readWord_normalBank h
    exact ⟨r14, r15, writeWord_systemBank r v s h⟩

/-- Settles O7: State.reset has an empty memory list and FCW 0xC000. -/
theorem invariantAtReset : Obligations.InvariantAtReset := ⟨wf_reset, rfl⟩

end Sys2Proof
end

section
/-! PROOFS. What the entry of a trap or interrupt leaves (60_exceptions.md R330 to R332). -/

namespace Sys2Proof.Machine

/- The words of a frame: none overlaps another. -/

/-- Two words of a frame share no byte: `j` and `k` are the offsets of different words. -/
theorem span_word_apart (a : Addr) {j k : Word} (h : j ≠ k ∧ j + 1#16 ≠ k ∧ j ≠ k + 1#16) :
    ∀ c ∈ span .word (offsetBy a j), c ∉ span .word (offsetBy a k) := by
  obtain ⟨ne, above, below⟩ := h
  have both : j + 1#16 ≠ k + 1#16 := fun e => ne (by simpa using e)
  simp only [span, offsetBy_offsetBy, List.mem_cons, List.not_mem_nil, or_false, not_or]
  rintro c (rfl | rfl)
  · exact ⟨fun e => ne (offsetBy_inj.mp e), fun e => below (offsetBy_inj.mp e)⟩
  · exact ⟨fun e => above (offsetBy_inj.mp e), fun e => both (offsetBy_inj.mp e)⟩

/-- A store that answers is read back. -/
theorem peek_store_same {g : Guard} {w : Width} {a : Addr} {v : BitVec w.bits} {s t : State}
    (h : store g w a v s = .next t) : peek w a t = v := by
  obtain ⟨_, _, rfl⟩ := store_next h
  exact (peek_congr w a fun _ _ => byteAt_markStale _ _ _ _).trans (peek_poke_same w a v s)

/-- A store of one word of a frame leaves the others. -/
theorem peek_store_apart {g : Guard} {a : Addr} {j k v : Word} {s t : State}
    (h : store g .word (offsetBy a k) v s = .next t) (apart : j ≠ k ∧ j + 1#16 ≠ k ∧ j ≠ k + 1#16) :
    peek .word (offsetBy a j) t = peek .word (offsetBy a j) s :=
  peek_congr _ _ fun c hc => (frame_store h).memory c (span_word_apart a apart c hc)

/-- The segment of a segment word, whatever its reserved bits (20_memory.md R61). -/
theorem segmentWord_segment (seg : BitVec 7) (free : Quad) : (segmentWord seg free).extractLsb' 8 7 = seg := by
  have e := congrArg Addr.seg (addrOf_longOf ⟨seg, 0⟩ free)
  refine Eq.trans ?_ e
  apply BitVec.eq_of_getLsbD_eq
  intro i hi
  simp only [addrOf, longOf, BitVec.getLsbD_extractLsb', BitVec.getLsbD_append]
  rw [if_neg (by omega), show 24 + i - 16 = 8 + i by omega]

/-- The state in which the frame is stored: system mode, the system stack down by four words
(60_exceptions.md R332). -/
def frameBase (s : State) : State := stepPointer 14#4 (-8#16) (setFcw { s.fcw with sn := true } (spend 2 s))

/-- The frame is stored at `frameAt`. -/
theorem pointer_frameBase (s : State) : pointer 14#4 (frameBase s) = frameAt s := by
  rw [frameBase, pointer_stepPointer]; rfl

/-- The frame base differs from the state before in the mode, R15s and the counter of free values. -/
theorem frameBase_eq (s : State) : frameBase s =
    { s with fcw := { s.fcw with sn := true }, r15s := s.r15s - 8, draws := s.draws + 2 } := by
  simp [frameBase, stepPointer, writeWord, readWord, setFcw, spend, BitVec.sub_eq_add_neg]

/-- A store that answers changes memory and the look-ahead mark only. -/
theorem store_eq {g : Guard} {w : Width} {a : Addr} {v : BitVec w.bits} {s t : State} (h : store g w a v s = .next t) :
    t = { s with mem := t.mem, stale := s.stale || (span w a).any g.covers } := by
  obtain ⟨_, _, rfl⟩ := store_next h
  simp [markStale]

/-- A pushed frame changes memory and the look-ahead mark of the frame base only. -/
theorem pushFrame_eq {g : Guard} {id : Word} {spc : Addr} {s t : State} (h : pushFrame g id spc s = .next t) :
    t = { frameBase s with mem := t.mem, stale := s.stale || (frameBytes s).any g.covers } := by
  obtain ⟨b, a1, a2, a3, hb, h1, h2, h3, h4⟩ := pushFrame_next h
  obtain rfl : b = frameBase s := hb
  rw [pointer_frameBase] at h1 h2 h3 h4
  have mark : t.stale = (s.stale || (frameBytes s).any g.covers) := by
    rw [(frame_store h4).look, (frame_store h3).look, (frame_store h2).look, (frame_store h1).look, frameBase_eq]
    simp only [frameBytes, List.any_append]
    ac_rfl
  rw [← mark, store_eq h4, store_eq h3, store_eq h2, store_eq h1]

/-- The four words of a pushed frame (60_exceptions.md R330). -/
theorem pushFrame_words {g : Guard} {id : Word} {spc : Addr} {s t : State} (h : pushFrame g id spc s = .next t) :
    peek .word (frameAt s) t = id ∧
      peek .word (offsetBy (frameAt s) 2#16) t = s.fcw.toWord (reservedBits (draw 0 s)) ∧
      peek .word (offsetBy (frameAt s) 4#16) t = segmentWord spc.seg (draw 1 s) ∧
      peek .word (offsetBy (frameAt s) 6#16) t = spc.off := by
  obtain ⟨b, a1, a2, a3, hb, h1, h2, h3, h4⟩ := pushFrame_next h
  obtain rfl : b = frameBase s := hb
  rw [pointer_frameBase] at h1 h2 h3 h4
  have top := peek_store_same h4
  rw [← offsetBy_zero (frameAt s)] at h4
  refine ⟨top, ?_, ?_, ?_⟩
  · rw [peek_store_apart h4 (by decide), peek_store_same h3]
  · rw [peek_store_apart h4 (by decide), peek_store_apart h3 (by decide), peek_store_same h2]
  · rw [peek_store_apart h4 (by decide), peek_store_apart h3 (by decide), peek_store_apart h2 (by decide),
      peek_store_same h1]

/-- A pushed frame leaves memory outside its bytes (60_exceptions.md R332). -/
theorem pushFrame_memory {g : Guard} {id : Word} {spc : Addr} {s t : State} (h : pushFrame g id spc s = .next t)
    (a : Addr) (ha : a ∉ frameBytes s) : byteAt t a = byteAt s a := by
  obtain ⟨b, a1, a2, a3, hb, h1, h2, h3, h4⟩ := pushFrame_next h
  obtain rfl : b = frameBase s := hb
  rw [pointer_frameBase] at h1 h2 h3 h4
  simp only [frameBytes, List.mem_append, not_or] at ha
  obtain ⟨⟨⟨out0, out2⟩, out4⟩, out6⟩ := ha
  calc byteAt t a = byteAt a3 a := (frame_store h4).memory a out0
    _ = byteAt a2 a := (frame_store h3).memory a out2
    _ = byteAt a1 a := (frame_store h2).memory a out4
    _ = byteAt (frameBase s) a := (frame_store h1).memory a out6
    _ = byteAt s a := by simp [frameBase]

/-- An acknowledged event: only a non-maskable interrupt leaves the pending set (60_exceptions.md R332). -/
theorem acknowledge_eq (e : Event) (s : State) :
    acknowledge e s = { s with nmiPending := s.nmiPending && !decide (e = .nmi) } := by
  cases e <;> simp [acknowledge]

end Sys2Proof.Machine

namespace Sys2Proof

open Machine

/-- An entry that answers leaves what 60_exceptions.md R332 says: the frame, then the new program status. -/
theorem entered_of_enter {g : Guard} {e : Event} {id : Word} {spc : Addr} {s t : State}
    (h : enter g e id spc s = .next t) : Entered g e id spc s t := by
  obtain ⟨_, _, u, v, hu, hv, rfl⟩ := enter_next h
  obtain ⟨_, _, _, rfl⟩ := loadStatus_next hv
  obtain ⟨identifier, savedFcw, savedSegment, savedOffset⟩ := pushFrame_words hu
  have memory := pushFrame_memory hu
  have pushed := pushFrame_eq hu
  rw [frameBase_eq] at pushed
  generalize u.mem = m at pushed
  subst pushed
  rw [acknowledge_eq]
  exact {
    identifier := identifier
    savedFcw := (congrArg Fcw.ofWord savedFcw).trans (ofWord_toWord _ _)
    savedSegment := (congrArg (BitVec.extractLsb' 8 7) savedSegment).trans (segmentWord_segment _ _)
    savedOffset := savedOffset
    fcw := rfl
    pc := rfl
    stack := ⟨rfl, rfl⟩
    registers := ⟨rfl, rfl, rfl⟩
    memory := memory
    look := rfl
    nmi := rfl
    rest := ⟨rfl, rfl, rfl, rfl, rfl⟩
    requests := ⟨rfl, rfl, rfl, rfl⟩
    environment := ⟨rfl, rfl, rfl⟩ }

end Sys2Proof
end

section
/-! PROOFS. What an instruction leaves of the system state when it does not enter a trap: the control bits of FCW,
the system bank, PSAP, REFRESH, the latches and the I/O trace (10_state.md R33, 60_exceptions.md R360), and memory in
its canonical form. -/

namespace Sys2Proof.Machine

/-- The control bits of FCW: SEG, S/N, EPA, VIE, NVIE (10_state.md R29). -/
def Fcw.control (f : Fcw) : Bool × Bool × Bool × Bool × Bool := (f.seg, f.sn, f.epa, f.vie, f.nvie)

theorem control_eq_iff (f g : Fcw) : f.control = g.control ↔
    f.seg = g.seg ∧ f.sn = g.sn ∧ f.epa = g.epa ∧ f.vie = g.vie ∧ f.nvie = g.nvie := by
  simp only [Fcw.control, Prod.mk.injEq]

/- The flag functions write flags only. -/

@[simp] theorem setCZSV_control (f : Fcw) (c z s v : Bool) : (f.setCZSV c z s v).control = f.control := rfl
@[simp] theorem setZS_control {n : Nat} (f : Fcw) (r : BitVec n) : (f.setZS r).control = f.control := rfl
@[simp] theorem setPV_control (f : Fcw) (v : Bool) : (f.setPV v).control = f.control := rfl
@[simp] theorem setZ_control (f : Fcw) (z : Bool) : (f.setZ z).control = f.control := rfl
@[simp] theorem setProduct_control (f : Fcw) (h : Nat) (p : Int) : (f.setProduct h p).control = f.control := rfl
@[simp] theorem withFlags_control (f : Fcw) (b : Byte) : (f.withFlags b).control = f.control := rfl
@[simp] theorem setDH_control (f : Fcw) (w : Width) (d h : Bool) : (f.setDH w d h).control = f.control := by
  cases w <;> rfl
@[simp] theorem setArith_control {n : Nat} (f : Fcw) (w : Width) (d : Bool) (x : Sum n) :
    (f.setArith w d x).control = f.control := by simp [Fcw.setArith]
@[simp] theorem setLogic_control {n : Nat} (f : Fcw) (w : Width) (r : BitVec n) :
    (f.setLogic w r).control = f.control := by cases w <;> rfl
@[simp] theorem divideFlags_control (q : Quotient) (s : State) : (divideFlags q s).control = s.fcw.control := by
  cases q <;> rfl
@[simp] theorem testFlags_control (w : Width) (r : BitVec w.bits) (s : State) :
    (testFlags w r s).control = s.fcw.control := by cases w <;> rfl
@[simp] theorem compareFlags_control (hit ends : Bool) (s : State) :
    (compareFlags hit ends s).control = s.fcw.control := rfl

end Sys2Proof.Machine

namespace Sys2Proof

open Machine

/-- From `s` to `t` no system state changes, and memory stays canonical. In system mode R14 and R15 are general
registers, so that their system copies count in normal mode only. -/
structure Confined (s t : State) : Prop where
  control : t.fcw.control = s.fcw.control
  systemBank : s.fcw.sn = false → t.r14s = s.r14s ∧ t.r15s = s.r15s
  psap : t.psap = s.psap
  refresh : t.refresh = s.refresh
  mo : t.mo = s.mo
  halted : t.halted = s.halted
  trace : t.trace = s.trace
  canonical : s.mem.wf = true → t.mem.wf = true

/-- A frame without I/O events is confined when it keeps the control bits and the canonical form. -/
theorem OnlyChanges.confined {g : Guard} {rs : List Reg} {bs : List Addr} {s t : State}
    (h : OnlyChanges g rs bs [] s t) (hc : t.fcw.control = s.fcw.control) (hm : s.mem.wf = true → t.mem.wf = true) :
    Confined s t where
  control := hc
  systemBank := h.systemBank
  psap := h.psap
  refresh := h.refresh
  mo := h.mo
  halted := h.halted
  trace := by simpa using h.trace
  canonical := hm

namespace Confined

theorem refl (s : State) : Confined s s := (OnlyChanges.refl Guard.none s).confined rfl id

theorem mode {s t : State} (h : Confined s t) : t.fcw.sn = s.fcw.sn :=
  ((control_eq_iff _ _).mp h.control).2.1

theorem trans {s t u : State} (h : Confined s t) (k : Confined t u) : Confined s u where
  control := k.control.trans h.control
  systemBank normal := by
    obtain ⟨r14, r15⟩ := h.systemBank normal
    obtain ⟨r14', r15'⟩ := k.systemBank (h.mode.trans normal)
    exact ⟨r14'.trans r14, r15'.trans r15⟩
  psap := k.psap.trans h.psap
  refresh := k.refresh.trans h.refresh
  mo := k.mo.trans h.mo
  halted := k.halted.trans h.halted
  trace := k.trace.trans h.trace
  canonical wf := k.canonical (h.canonical wf)

/-- The invariant stays where no system state changes. -/
theorem inv {s t : State} (h : Confined s t) (hi : Inv s) : Inv t :=
  ⟨h.canonical hi.1, ((control_eq_iff _ _).mp h.control).1.trans hi.2⟩

/- One more update after a confined change. -/

section
variable {s t u : State} (h : Confined s t)
include h

theorem advanced (n : Nat) : Confined s (advance n t) :=
  h.trans ((frame_advance Guard.none n t).confined rfl id)

theorem jumped (a : Addr) : Confined s (jumpTo a t) :=
  h.trans ((frame_jumpTo Guard.none a t).confined rfl id)

theorem spent (n : Nat) : Confined s (spend n t) :=
  h.trans ((frame_spend Guard.none n t).confined rfl id)

/-- FCW is written with the control bits it had at first. -/
theorem flagsSet {f : Fcw} (hf : f.control = s.fcw.control) : Confined s (setFcw f t) := by
  have same : f.control = t.fcw.control := hf.trans h.control.symm
  exact h.trans ((frame_setFcw Guard.none f t ((control_eq_iff _ _).mp same).2.1).confined same id)

theorem regWritten (w : Width) (d : Reg) (v : BitVec w.bits) : Confined s (writeReg w d v t) :=
  h.trans ((frame_writeReg Guard.none w d v t).confined (by simp) (by simp))

theorem quadWritten (d : Reg) (v : Quad) : Confined s (writeQuad d v t) :=
  h.trans ((frame_writeQuad Guard.none d v t).confined (by simp) (by simp))

theorem pointerStepped (p : Reg) (k : Word) : Confined s (stepPointer p k t) := h.regWritten .word (p + 1#4) _

theorem countedDown (r : Reg) : Confined s (countDown r t) := h.regWritten .word r _

theorem iterated (rep done : Bool) : Confined s (endIteration rep done t) := by
  unfold endIteration
  split
  · exact h
  · exact h.advanced 2

theorem stored {g : Guard} {w : Width} {a : Addr} {v : BitVec w.bits} (hu : store g w a v t = .next u) :
    Confined s u := by
  refine h.trans ((frame_store hu).confined ?_ (store_wf hu))
  obtain ⟨_, _, rfl⟩ := store_next hu
  simp

theorem placeWritten {g : Guard} {w : Width} {p : Place} {v : BitVec w.bits} (hu : writePlace g w p v t = .next u) :
    Confined s u := by
  cases p with
  | reg r => cases hu; exact h.regWritten w r v
  | mem a => exact h.stored hu

end

end Confined

/- One lemma for each shared operation: if it answers, it is confined. -/

section
variable {s t u : State}

/-- An instruction whose next state is written out. -/
theorem confined_of_next (hu : Confined s u) (h : (.next u : Res State) = .next t) : Confined s t := by
  cases h; exact hu

/- Loads and exchanges (40_load_exchange.md). -/

theorem loadReg_confined {w : Width} {d : Reg} {n : Nat} {v : Res (BitVec w.bits)} (h : loadReg w d n v s = .next t) :
    Confined s t := by
  obtain ⟨x, _, rfl⟩ := loadReg_next h
  exact ((Confined.refl s).regWritten w d x).advanced n

theorem storeAt_confined {w : Width} {n : Nat} {a : Addr} {v : BitVec w.bits} (h : storeAt w n a v s = .next t) :
    Confined s t := by
  obtain ⟨u, hu, rfl⟩ := storeAt_next h
  exact ((Confined.refl s).stored hu).advanced n

theorem loadAddress_confined {d : Reg} {n : Nat} {a : Addr} (h : loadAddress d n a s = .next t) : Confined s t := by
  cases h
  exact (((Confined.refl s).regWritten .long d _).spent 1).advanced n

theorem clearOpd_confined {w : Width} {o : Opd} (h : clearOpd w o s = .next t) : Confined s t := by
  obtain ⟨u, hu, rfl⟩ := clearOpd_next h
  exact ((Confined.refl s).placeWritten hu).advanced _

theorem exchange_confined {w : Width} {d : Reg} {o : Opd} (h : exchange w d o s = .next t) : Confined s t := by
  obtain ⟨_, u, hu, rfl⟩ := exchange_next h
  exact (((Confined.refl s).placeWritten hu).regWritten w d _).advanced _

theorem pushValue_confined {w : Width} {p : Reg} {n : Nat} {regs : List Reg} {v : Res (BitVec w.bits)}
    (h : pushValue w p n regs v s = .next t) : Confined s t := by
  obtain ⟨_, x, u, _, hu, rfl⟩ := pushValue_next h
  exact (((Confined.refl s).pointerStepped p _).stored hu).advanced n

theorem popValue_confined {w : Width} {o : Opd} {p : Reg} (h : popValue w o p s = .next t) : Confined s t := by
  obtain ⟨_, _, u, hu, rfl⟩ := popValue_next h
  exact (((Confined.refl s).pointerStepped p _).placeWritten hu).advanced _

theorem loadWords_confined {n : Nat} {d : Reg} {a : Addr} (h : loadWords n d a s = .next t) : Confined s t := by
  induction n generalizing d a s with
  | zero => exact confined_of_next (.refl s) h
  | succ n ih =>
    obtain ⟨v, _, h⟩ := andThen_eq_next h
    exact ((Confined.refl s).regWritten .word d v).trans (ih h)

theorem storeWords_confined {g : Guard} {n : Nat} {r : Reg} {a : Addr} (h : storeWords g n r a s = .next t) :
    Confined s t := by
  induction n generalizing r a s with
  | zero => exact confined_of_next (.refl s) h
  | succ n ih =>
    obtain ⟨u, hu, h⟩ := andThen_eq_next h
    exact ((Confined.refl s).stored hu).trans (ih h)

theorem loadMultiple_confined {d : Reg} {m : Mem} {n1 : BitVec 4} (h : loadMultiple d m n1 s = .next t) :
    Confined s t := by
  obtain ⟨_, u, hu, rfl⟩ := loadMultiple_next h
  exact (loadWords_confined hu).advanced _

theorem storeMultiple_confined {m : Mem} {r : Reg} {n1 : BitVec 4} (h : storeMultiple m r n1 s = .next t) :
    Confined s t := by
  obtain ⟨u, hu, rfl⟩ := storeMultiple_next h
  exact (storeWords_confined hu).advanced _

/- Arithmetic (41_arithmetic.md). -/

theorem addSub_confined {w : Width} {op : BitVec w.bits → BitVec w.bits → Bool → Sum w.bits} {cin dflag : Bool}
    {d : Reg} {n : Nat} {b : Res (BitVec w.bits)} (h : addSub w op cin dflag d n b s = .next t) : Confined s t := by
  obtain ⟨x, _, rfl⟩ := addSub_next h
  exact (((Confined.refl s).regWritten w d _).flagsSet (by simp)).advanced n

theorem compare_confined {w : Width} {n : Nat} {a b : Res (BitVec w.bits)} (h : compare w n a b s = .next t) :
    Confined s t := by
  obtain ⟨x, y, _, _, rfl⟩ := compare_next h
  exact ((Confined.refl s).flagsSet (by simp)).advanced n

theorem negate_confined {w : Width} {o : Opd} (h : negate w o s = .next t) : Confined s t := by
  obtain ⟨_, u, hu, f, rfl, rfl⟩ := negate_next h
  exact (((Confined.refl s).placeWritten hu).flagsSet (by simp)).advanced _

theorem countOpd_confined {w : Width} {op : BitVec w.bits → BitVec w.bits → Bool → Sum w.bits} {o : Opd}
    {n1 : BitVec 4} (h : countOpd w op o n1 s = .next t) : Confined s t := by
  obtain ⟨_, x, u, _, hu, rfl⟩ := countOpd_next h
  exact (((Confined.refl s).placeWritten hu).flagsSet (by simp)).advanced _

theorem multiplyWord_confined {d : Reg} {src : Src 16} (h : multiplyWord d src s = .next t) : Confined s t := by
  obtain ⟨_, p, _, rfl⟩ := multiplyWord_next h
  exact (((Confined.refl s).regWritten .long d _).flagsSet (by simp)).advanced _

theorem multiplyLong_confined {d : Reg} {src : Src 32} (h : multiplyLong d src s = .next t) : Confined s t := by
  obtain ⟨_, p, _, rfl⟩ := multiplyLong_next h
  exact (((Confined.refl s).quadWritten d _).flagsSet (by simp)).advanced _

theorem divideWord_confined {d : Reg} {src : Src 16} (h : divideWord d src s = .next t) : Confined s t := by
  obtain ⟨b, _, h⟩ := andThen_eq_next h
  cases h
  refine ((Confined.flagsSet ?_ (by simp)).spent 4).advanced _
  split
  · exact .refl s
  · exact (Confined.refl s).regWritten .long d _
  · exact (Confined.refl s).regWritten .long d _

theorem divideLong_confined {d : Reg} {src : Src 32} (h : divideLong d src s = .next t) : Confined s t := by
  obtain ⟨b, _, h⟩ := andThen_eq_next h
  cases h
  refine ((Confined.flagsSet ?_ (by simp)).spent 4).advanced _
  split
  · exact .refl s
  · exact (Confined.refl s).quadWritten d _
  · exact (Confined.refl s).quadWritten d _

theorem decimalAdjust_confined {d : Reg} (h : decimalAdjust d s = .next t) : Confined s t := by
  cases h
  refine (Confined.spent ?_ 4).advanced 1
  split
  · exact ((Confined.refl s).regWritten .byte d _).flagsSet (by simp)
  · exact ((Confined.refl s).regWritten .byte d _).flagsSet (by simp)

/- Logical and bit instructions (42_logical_bit.md). -/

theorem logical_confined {w : Width} {op : BitVec w.bits → BitVec w.bits → BitVec w.bits} {d : Reg}
    {src : Src w.bits} (h : logical w op d src s = .next t) : Confined s t := by
  obtain ⟨_, r, _, rfl⟩ := logical_next h
  exact (((Confined.refl s).regWritten w d r).flagsSet (by simp)).advanced _

theorem complement_confined {w : Width} {o : Opd} (h : complement w o s = .next t) : Confined s t := by
  obtain ⟨_, u, hu, rfl⟩ := complement_next h
  exact (((Confined.refl s).placeWritten hu).flagsSet (by simp)).advanced _

theorem testOpd_confined {w : Width} {o : Opd} (h : testOpd w o s = .next t) : Confined s t := by
  obtain ⟨_, rfl⟩ := testOpd_next h
  exact (((Confined.refl s).flagsSet (by simp)).spent 1).advanced _

theorem testCondition_confined {w : Width} {cc : CC} {d : Reg} (h : testCondition w cc d s = .next t) :
    Confined s t := by
  cases h
  refine Confined.advanced ?_ 1
  split
  · exact (Confined.refl s).regWritten w d _
  · exact .refl s

theorem testBit_confined {w : Width} {n b : Nat} {p : Place} (h : testBit w n p b s = .next t) : Confined s t := by
  obtain ⟨v, _, h⟩ := andThen_eq_next h
  cases h
  exact ((Confined.refl s).flagsSet (by simp)).advanced n

theorem changeBit_confined {w : Width} {n : Nat} {p : Place} {change : BitVec w.bits → BitVec w.bits}
    (h : changeBit w n p change s = .next t) : Confined s t := by
  obtain ⟨v, _, h⟩ := andThen_eq_next h
  obtain ⟨u, hu, hz⟩ := andThen_eq_next h
  cases hz
  exact ((Confined.refl s).placeWritten hu).advanced n

theorem testAndSet_confined {w : Width} {o : Opd} (h : testAndSet w o s = .next t) : Confined s t := by
  obtain ⟨_, u, hu, rfl⟩ := testAndSet_next h
  exact (((Confined.refl s).placeWritten hu).flagsSet (by rfl)).advanced _

/- Rotates and shifts (43_rotate_shift.md). -/

theorem rotate_confined {w : Width} {one : BitVec w.bits → Bool → BitVec w.bits × Bool} {d : Reg} {two : Bool}
    (h : rotate w one d two s = .next t) : Confined s t := by
  cases h
  exact ((((Confined.refl s).regWritten w d _).flagsSet (by simp)).spent 1).advanced 1

theorem rotateDigits_confined {left : Bool} {l r : Reg} (h : rotateDigits left l r s = .next t) : Confined s t := by
  cases h
  refine (Confined.spent ?_ 3).advanced 1
  split
  · exact ((Confined.refl s).regWritten .byte l _).flagsSet (by rfl)
  · exact (((Confined.refl s).regWritten .byte l _).regWritten .byte r _).flagsSet (by rfl)

theorem shiftLeft_confined (w : Width) (arith : Bool) (d : Reg) (n : Nat) (s : State) :
    Confined s (shiftLeft w arith d n s) :=
  (((Confined.refl s).regWritten w d _).flagsSet (by simp)).spent 2

theorem shiftRight_confined (w : Width) (arith : Bool) (d : Reg) (n : Nat) (s : State) :
    Confined s (shiftRight w arith d n s) :=
  (((Confined.refl s).regWritten w d _).flagsSet (by simp)).spent 2

theorem shiftDynamic_confined (w : Width) (arith : Bool) (d r : Reg) (s : State) :
    Confined s (shiftDynamic w arith d r s) := by
  unfold shiftDynamic
  dsimp only
  split
  · exact (((Confined.refl s).regWritten w d _).flagsSet (by simp)).spent 5
  · split
    · exact shiftLeft_confined ..
    · exact shiftRight_confined ..

/- Program control and flags (44_program_control.md, 47_cpu_control.md). -/

theorem callTo_confined {n : Nat} {target : Addr} (h : callTo n target s = .next t) : Confined s t := by
  obtain ⟨u, hu, rfl⟩ := callTo_next h
  exact ((((Confined.refl s).pointerStepped 14#4 _).stored hu).spent 1).jumped target

theorem execRet_confined {cc : CC} (h : execRet cc s = .next t) : Confined s t := by
  unfold execRet at h
  split at h
  · obtain ⟨_, rfl⟩ := popReturn_next h
    exact ((Confined.refl s).pointerStepped 14#4 _).jumped _
  · cases h
    exact (Confined.refl s).advanced 1

theorem branch_confined (taken : Bool) (a : Addr) (n : Nat) (s : State) :
    Confined s (if taken then jumpTo a s else advance n s) := by
  cases taken
  · exact (Confined.refl s).advanced n
  · exact (Confined.refl s).jumped a

theorem countAndJump_confined (w : Width) (r : Reg) (p : BitVec 7) (s : State) :
    Confined s (countAndJump w r p s) := by
  have written := (Confined.refl s).regWritten w r (readReg w r s - 1#_)
  unfold countAndJump
  dsimp only
  split
  · exact written.advanced 1
  · exact written.jumped _

theorem changeFlags_confined (op : Bool → Bool → Bool) (named : BitVec 4) (s : State) :
    Confined s (changeFlags op named s) := (Confined.refl s).flagsSet (by rfl)

/- Block instructions (45_block_string.md). -/

theorem compareBlock_confined {w : Width} {up rep : Bool} {d p r : Reg} {cc : CC}
    (h : compareBlock w up rep d p r cc s = .next t) : Confined s t := by
  obtain ⟨_, _, x, hit, _, _, rfl⟩ := compareBlock_next h
  exact (((((Confined.refl s).pointerStepped p _).countedDown r).flagsSet (by simp)).spent 2).iterated rep _

theorem compareStrings_confined {w : Width} {up rep : Bool} {d p r : Reg} {cc : CC}
    (h : compareStrings w up rep d p r cc s = .next t) : Confined s t := by
  obtain ⟨_, _, _, x, hit, _, _, rfl⟩ := compareStrings_next h
  have stepped := ((Confined.refl s).pointerStepped d (blockStep w up)).pointerStepped p (blockStep w up)
  exact (((stepped.countedDown r).flagsSet (by simp)).spent 2).iterated rep _

theorem moveBlock_confined {w : Width} {up rep : Bool} {d p r : Reg} (h : moveBlock w up rep d p r s = .next t) :
    Confined s t := by
  obtain ⟨_, _, u, hu, rfl⟩ := moveBlock_next h
  have stepped := (((Confined.refl s).stored hu).pointerStepped d (blockStep w up)).pointerStepped p (blockStep w up)
  exact (((stepped.countedDown r).flagsSet (by simp)).spent 1).iterated rep _

theorem translate_confined {up rep : Bool} {d p r : Reg} (h : translate up rep d p r s = .next t) :
    Confined s t := by
  obtain ⟨_, b, v, u, _, _, hu, rfl⟩ := translate_next h
  have counted := (((Confined.refl s).stored hu).pointerStepped d (blockStep .byte up)).countedDown r
  exact (((counted.regWritten .byte 1#4 _).flagsSet (by simp)).spent 2).iterated rep _

theorem translateTest_confined {up rep : Bool} {d p r : Reg} (h : translateTest up rep d p r s = .next t) :
    Confined s t := by
  obtain ⟨_, b, v, _, _, rfl⟩ := translateTest_next h
  have written := (Confined.refl s).regWritten .byte 1#4 v
  exact (((written.pointerStepped d (blockStep .byte up)).countedDown r).flagsSet (by simp)).iterated rep _

end

end Sys2Proof
end

section
/-! PROOFS. Every instruction that completes is confined, enters one of the three internal traps, or runs in system
mode and keeps the invariant; every step keeps the invariant (10_state.md R33, 60_exceptions.md R320, R335, R360). -/

namespace Sys2Proof

open Machine

/- The invariant across what only system mode or an event does. -/

section
variable {s t u : State}

/-- The invariant depends on memory and SEG only. -/
theorem Inv.congr (hi : Inv s) (hm : t.mem = s.mem) (hf : t.fcw.seg = s.fcw.seg) : Inv t :=
  ⟨hm ▸ hi.1, hf.trans hi.2⟩

/-- A whole-FCW write answers only for a word with SEG = 1 (10_state.md R34). -/
theorem inv_ofWord {v : Word} (hm : t.mem.wf = true) (hv : v.getLsbD 15 = true) (hf : t.fcw = Fcw.ofWord v) : Inv t :=
  ⟨hm, by rw [hf, ofWord_seg, hv]⟩

/-- The entry of a trap or interrupt: the frame keeps memory canonical, the new FCW has SEG = 1
(60_exceptions.md R332). -/
theorem enter_inv {g : Guard} {e : Event} {id : Word} {spc : Addr} (h : enter g e id spc s = .next t) (hi : Inv s) :
    Inv t := by
  obtain ⟨_, _, u, v, hu, hv, rfl⟩ := enter_next h
  obtain ⟨_, _, seg, rfl⟩ := loadStatus_next hv
  have wf := pushFrame_wf hu hi.1
  rw [acknowledge_eq]
  exact inv_ofWord wf seg rfl

theorem loadProgramStatus_inv {a : Addr} (h : loadProgramStatus a s = .next t) (hi : Inv s) : Inv t := by
  obtain ⟨_, _, _, seg, rfl⟩ := loadProgramStatus_next h
  exact inv_ofWord hi.1 seg rfl

theorem returnFromTrap_inv (h : returnFromTrap s = .next t) (hi : Inv s) : Inv t := by
  obtain ⟨a, _, _, _, _, seg, rfl⟩ := returnFromTrap_next h
  exact inv_ofWord (by simpa using hi.1) seg rfl

theorem performReset_inv (h : performReset s = .next t) (hi : Inv s) : Inv t := by
  obtain ⟨seg, fcw, _, mem, _⟩ := performReset_next h
  exact inv_ofWord (mem ▸ hi.1) seg fcw

theorem writeControl_inv {c : Ctl} {v : Word} (h : writeControl c v s = .next t) (hi : Inv s) : Inv t := by
  obtain ⟨mem, _, other, whole⟩ := writeControl_next h
  by_cases hc : c = .fcw
  · obtain ⟨seg, rfl⟩ := whole hc
    exact inv_ofWord hi.1 seg rfl
  · exact hi.congr mem (by rw [other hc])

/- Input and output (46_input_output.md): the trace grows, which is no part of the invariant. -/

theorem inputReg_inv {w : Width} {sp : Space} {port : Word} {d : Reg} {n : Nat}
    (h : inputReg w sp port d n s = .next t) (hi : Inv s) : Inv t := by
  cases h
  exact hi.congr (by simp) (by simp)

theorem outputReg_inv {w : Width} {sp : Space} {port : Word} {r : Reg} {n : Nat}
    (h : outputReg w sp port r n s = .next t) (hi : Inv s) : Inv t := by
  cases h
  exact hi.congr (by simp) (by simp)

theorem inputBlock_inv {w : Width} {sp : Space} {up rep : Bool} {d p r : Reg}
    (h : inputBlock w sp up rep d p r s = .next t) (hi : Inv s) : Inv t := by
  obtain ⟨_, u, hu, rfl⟩ := inputBlock_next h
  have stored := (Confined.refl (ioRead sp (readWord p s) w s)).stored hu
  have counted := (stored.pointerStepped d (blockStep w up)).countedDown r
  exact (((counted.flagsSet (by simp)).spent 1).iterated rep _).inv (hi.congr rfl rfl)

theorem outputBlock_inv {w : Width} {sp : Space} {up rep : Bool} {d p r : Reg}
    (h : outputBlock w sp up rep d p r s = .next t) (hi : Inv s) : Inv t := by
  obtain ⟨_, _, rfl⟩ := outputBlock_next h
  have written := Confined.refl (ioWrite sp (readWord d s) w (peek w (pointer p s) s) s)
  have counted := (written.pointerStepped p (blockStep w up)).countedDown r
  exact (((counted.flagsSet (by simp)).spent 1).iterated rep _).inv (hi.congr rfl rfl)

/- The multi-micro request (47_cpu_control.md R303). -/

theorem requestMulti_inv (d : Reg) (hi : Inv s) : Inv (requestMulti d s) := by
  unfold requestMulti
  dsimp only
  split
  · exact hi.congr (by simp) rfl
  · exact hi.congr rfl rfl

/-- The invariant of a next state that is written out. -/
theorem inv_of_next (hu : Inv s → Inv u) (h : (.next u : Res State) = .next t) (hi : Inv s) : Inv t := by
  cases h; exact hu hi

end

/-- What an instruction that completes has done: it changed no system state; or it entered one of the internal traps;
or it ran in system mode and kept the invariant. -/
inductive Completion (i : Instr) (s t : State) : Prop where
  | confined (h : Confined s t)
  | trapped (e : Event) (spc : Addr)
      (he : e ∈ [Event.extendedInstruction, Event.privilegedInstruction, Event.systemCall])
      (h : enter (guardOf i s) e (firstWord i) spc s = .next t)
  | system (hs : s.fcw.sn = true) (h : Inv s → Inv t)

namespace Completion
variable {i : Instr} {s t : State}

/-- A privileged instruction traps in normal mode (47_cpu_control.md R290). -/
theorem of_privileged {body : Res State} (h : privileged i s body = .next t)
    (hb : body = .next t → Inv s → Inv t) : Completion i s t := by
  rcases privileged_cases i s body with ⟨mode, e⟩ | ⟨_, e⟩ <;> rw [e] at h
  · exact .system mode (hb h)
  · exact .trapped .privilegedInstruction _ (by simp) h

/-- An extended-instruction opcode traps when it completes (60_exceptions.md R334). -/
theorem of_extendedOpcode (h : extendedOpcode i s = .next t) : Completion i s t := by
  unfold extendedOpcode at h
  split at h
  · cases h
  · exact .trapped .extendedInstruction _ (by simp) h

/-- SC traps in both modes, in normal mode by the trap the open parameter names (47_cpu_control.md R308). -/
theorem of_systemCall {n : Byte} (h : execSc n s = .next t) : Completion (.sc n) s t := by
  unfold execSc at h
  split at h
  · exact .trapped .privilegedInstruction _ (by simp) h
  · exact .trapped .systemCall _ (by simp) h

/-- Every instruction that completes has one of these outcomes: its case follows from the lemma of the shared operation
that its meaning calls. -/
theorem of_exec (h : exec i s = .next t) : Completion i s t := by
  have start := Confined.refl s
  cases i
  case addb | add | addl | subb | sub | subl | adcb | adc | sbcb | sbc =>
    unfold exec at h; exact .confined (addSub_confined h)
  case orb | or | andb | and | xorb | xor => exact .confined (logical_confined h)
  case cpb | cp | cpl | cpbImm | cpImm => unfold exec at h; exact .confined (compare_confined h)
  case ldb | ld | ldl | ldrbLoad | ldbBA | ldbBX | ldrLoad | ldBA | ldBX | ldrlLoad | ldlBA | ldlBX | ldk | ldbShort =>
    unfold exec at h; exact .confined (loadReg_confined h)
  case mult => exact .confined (multiplyWord_confined h)
  case multl => exact .confined (multiplyLong_confined h)
  case div => exact .confined (divideWord_confined h)
  case divl => exact .confined (divideLong_confined h)
  case exb | ex => exact .confined (exchange_confined h)
  case comb | com => exact .confined (complement_confined h)
  case negb | neg => exact .confined (negate_confined h)
  case testb | test | testl => exact .confined (testOpd_confined h)
  case tsetb | tset => exact .confined (testAndSet_confined h)
  case clrb | clr => exact .confined (clearOpd_confined h)
  case ldbImm | ldImm | ldbStore | ldStore | ldlStore | ldrbStore | ldbStoreBA | ldbStoreBX | ldrStore | ldStoreBA |
      ldStoreBX | ldrlStore | ldlStoreBA | ldlStoreBX =>
    exact .confined (storeAt_confined h)
  case ldctlbRead d => exact .confined (confined_of_next (((start.regWritten .byte d _).spent 1).advanced 1) h)
  case ldctlbWrite => exact .confined (confined_of_next ((start.flagsSet (withFlags_control _ _)).advanced 1) h)
  case setflg | resflg | comflg => exact .confined (confined_of_next ((changeFlags_confined _ _ s).advanced 1) h)
  case nop => exact .confined (confined_of_next (start.advanced 1) h)
  case pushImm | push | pushl => unfold exec at h; exact .confined (pushValue_confined h)
  case pop | popl => exact .confined (popValue_confined h)
  case ldmLoad => exact .confined (loadMultiple_confined h)
  case ldmStore => exact .confined (storeMultiple_confined h)
  case jp | jr => exact .confined (confined_of_next (branch_confined _ _ _ s) h)
  case call | calr => exact .confined (callTo_confined h)
  case ret => exact .confined (execRet_confined h)
  case resb | res | resbDyn | resDyn | setb | set | setbDyn | setDyn =>
    unfold exec at h; exact .confined (changeBit_confined h)
  case bitb | bit | bitbDyn | bitDyn => unfold exec at h; exact .confined (testBit_confined h)
  case incb | inc | decb | dec => exact .confined (countOpd_confined h)
  case tccb | tcc => exact .confined (testCondition_confined h)
  case lda | ldaBA | ldaBX | ldar => exact .confined (loadAddress_confined h)
  case dab => exact .confined (decimalAdjust_confined h)
  case extsb d => exact .confined (confined_of_next ((start.regWritten .word d _).advanced 1) h)
  case exts d => exact .confined (confined_of_next ((start.regWritten .long d _).advanced 1) h)
  case extsl d => exact .confined (confined_of_next ((start.quadWritten d _).advanced 1) h)
  case rldb | rrdb => exact .confined (rotateDigits_confined h)
  case rlb | rl | rrb | rr | rlcb | rlc | rrcb | rrc => exact .confined (rotate_confined h)
  case sllb | sll | slll | slab | sla | slal =>
    exact .confined (confined_of_next ((shiftLeft_confined _ _ _ _ s).advanced 2) h)
  case srlb | srl | srll | srab | sra | sral =>
    exact .confined (confined_of_next ((shiftRight_confined _ _ _ _ s).advanced 2) h)
  case sdlb | sdl | sdll | sdab | sda | sdal =>
    exact .confined (confined_of_next ((shiftDynamic_confined _ _ _ _ s).advanced 2) h)
  case dbjnz | djnz => exact .confined (confined_of_next (countAndJump_confined _ _ _ s) h)
  case trib | trirb | trdb | trdrb => exact .confined (translate_confined h)
  case trtib | trtirb | trtdb | trtdrb => exact .confined (translateTest_confined h)
  case cpib | cpi | cpirb | cpir | cpdb | cpd | cpdrb | cpdr => exact .confined (compareBlock_confined h)
  case cpsib | cpsi | cpsirb | cpsir | cpsdb | cpsd | cpsdrb | cpsdr => exact .confined (compareStrings_confined h)
  case ldib | ldi | ldirb | ldir | lddb | ldd | lddrb | lddr => exact .confined (moveBlock_confined h)
  case sc => exact of_systemCall h
  case epu0E | epu0F | epu4E | epu4F | epu8E | epu8F => exact of_extendedOpcode h
  case inbInd | inInd | in_ | inb | sin | sinb => exact of_privileged h inputReg_inv
  case outbInd | outInd | out | outb | sout | soutb => exact of_privileged h outputReg_inv
  case ini | inib | sini | sinib | inir | inirb | sinir | sinirb | ind | indb | sind | sindb | indr | indrb | sindr |
      sindrb =>
    exact of_privileged h inputBlock_inv
  case outi | outib | souti | soutib | otir | otirb | sotir | sotirb | outd | outdb | soutd | soutdb | otdr | otdrb |
      sotdr | sotdrb =>
    exact of_privileged h outputBlock_inv
  case ldps => exact of_privileged h loadProgramStatus_inv
  case iret => exact of_privileged h returnFromTrap_inv
  case halt | mset | mres | mbit | di | ei => exact of_privileged h (inv_of_next fun hi => hi.congr rfl rfl)
  case mreq d => exact of_privileged h (inv_of_next fun hi => (requestMulti_inv d hi).congr rfl rfl)
  case ldctlRead => exact of_privileged h (inv_of_next fun hi => hi.congr (by simp) (by simp))
  case ldctlWrite =>
    refine of_privileged h fun hb hi => ?_
    obtain ⟨u, hu, hn⟩ := andThen_eq_next hb
    have written := writeControl_inv hu hi
    cases hn
    exact written.congr rfl rfl

/-- An instruction that completes keeps the invariant. -/
theorem inv (c : Completion i s t) (hi : Inv s) : Inv t := by
  cases c with
  | confined h => exact h.inv hi
  | trapped _ _ _ h => exact enter_inv h hi
  | system _ h => exact h hi

end Completion

/-- Settles O6: the outcomes of a step at a boundary, with `Completion.of_exec` for the instruction. -/
theorem invariantHeld : Obligations.InvariantHeld := by
  intro s t hi h
  obtain ⟨_, _, _, _, _, _, fcw, _, mem, _⟩ := sample_fields s
  have sampled : Inv (sample s) := hi.congr mem (congrArg Fcw.seg fcw)
  rcases step_cases s with ⟨_, e⟩ | ⟨_, _, e⟩ | ⟨_, _, ev, _, e⟩ | ⟨_, _, _, _, e⟩ | ⟨_, _, _, _, e⟩ <;> rw [e] at h
  · exact performReset_inv h sampled
  · cases h
  · exact enter_inv h (sampled.congr rfl rfl)
  · cases h; exact sampled
  · obtain ⟨i, _, hx⟩ := andThen_eq_next h
    exact (Completion.of_exec hx).inv sampled

/-- Settles O60: in normal mode an instruction that completes is confined or enters an internal trap. -/
theorem normalModeConfined : Obligations.NormalModeConfined := by
  intro i s t normal h
  cases Completion.of_exec h with
  | confined c =>
    obtain ⟨seg, sn, epa, vie, nvie⟩ := (control_eq_iff _ _).mp c.control
    obtain ⟨r14, r15⟩ := c.systemBank normal
    exact .inl ⟨seg, sn.trans normal, epa, vie, nvie, r14, r15, c.psap, c.refresh, c.mo, c.halted, c.trace⟩
  | trapped e spc he hx => exact .inr ⟨e, spc, he, entered_of_enter hx⟩
  | system mode _ => rw [normal] at mode; cases mode

end Sys2Proof
end

section
/-! PROOFS. Memory: its canonical list, the bytes of a stored value, the accesses that stop, and the fetches that
stop (20_memory.md R62 to R75, 60_exceptions.md R320). -/

namespace Sys2Proof.Machine

/- The canonical list of cells. -/

/-- A canonical list from `lo` on: its first cell and the rest. -/
theorem wfFrom_cons {lo k : Nat} {b : Byte} {m : Memory} : Memory.wfFrom lo ((k, b) :: m) = true ↔
    lo ≤ k ∧ k < 2 ^ 23 ∧ b ≠ unwritten ∧ Memory.wfFrom (k + 1) m = true := by
  simp only [Memory.wfFrom, Bool.and_eq_true, decide_eq_true_eq, and_assoc]

@[simp] theorem read_cons_same (k : Nat) (b : Byte) (m : Memory) : Memory.read ((k, b) :: m) k = b := if_pos rfl

theorem read_cons_other {k a : Nat} (b : Byte) (m : Memory) (h : a ≠ k) :
    Memory.read ((k, b) :: m) a = Memory.read m a := if_neg h

/-- A canonical list has no cell below its start. -/
theorem read_below {lo a : Nat} {m : Memory} (h : Memory.wfFrom lo m = true) (ha : a < lo) :
    m.read a = unwritten := by
  induction m generalizing lo with
  | nil => rfl
  | cons e m ih =>
    obtain ⟨k, b⟩ := e
    obtain ⟨hk, _, _, rest⟩ := wfFrom_cons.mp h
    rw [read_cons_other b m (by omega)]
    exact ih rest (by omega)

/-- The first cell of a canonical list is the lowest index that reads as written. -/
theorem first_cell_le {lo i j : Nat} {v w : Byte} {m k : Memory} (hm : Memory.wfFrom lo ((i, v) :: m) = true)
    (hk : Memory.wfFrom lo ((j, w) :: k) = true)
    (h : Memory.read ((i, v) :: m) i = Memory.read ((j, w) :: k) i) : j ≤ i := by
  obtain ⟨_, _, written, _⟩ := wfFrom_cons.mp hm
  obtain ⟨_, bound, used, rest⟩ := wfFrom_cons.mp hk
  by_contra below
  have start : Memory.wfFrom j ((j, w) :: k) = true := wfFrom_cons.mpr ⟨le_rfl, bound, used, rest⟩
  rw [read_cons_same, read_below start (by omega)] at h
  exact written h

/-- Behind a common first cell the rests read alike: both as unwritten at its index, elsewhere as the lists. -/
theorem read_rest_eq {i : Nat} {v : Byte} {m k : Memory} (hm : Memory.wfFrom (i + 1) m = true)
    (hk : Memory.wfFrom (i + 1) k = true)
    (h : ∀ a, Memory.read ((i, v) :: m) a = Memory.read ((i, v) :: k) a) (a : Nat) : m.read a = k.read a := by
  by_cases ha : a = i
  · rw [read_below hm (by omega), read_below hk (by omega)]
  · rw [← read_cons_other v m ha, ← read_cons_other v k ha, h a]

/-- Canonical lists from the same start that read alike are equal. -/
theorem eq_of_read_eq {lo : Nat} {m k : Memory} (hm : Memory.wfFrom lo m = true) (hk : Memory.wfFrom lo k = true)
    (h : ∀ a, m.read a = k.read a) : m = k := by
  induction m generalizing lo k with
  | nil =>
    cases k with
    | nil => rfl
    | cons e k =>
      obtain ⟨_, _, written, _⟩ := wfFrom_cons.mp hk
      exact absurd ((read_cons_same _ _ _).symm.trans (h e.1).symm) written
  | cons e m ih =>
    obtain ⟨i, v⟩ := e
    cases k with
    | nil =>
      obtain ⟨_, _, written, _⟩ := wfFrom_cons.mp hm
      exact absurd ((read_cons_same _ _ _).symm.trans (h i)) written
    | cons e k =>
      obtain ⟨j, w⟩ := e
      obtain rfl : i = j := le_antisymm (first_cell_le hk hm (h j).symm) (first_cell_le hm hk (h i))
      obtain rfl : v = w := by simpa using h i
      obtain ⟨_, _, _, restM⟩ := wfFrom_cons.mp hm
      obtain ⟨_, _, _, restK⟩ := wfFrom_cons.mp hk
      rw [ih restM restK (read_rest_eq restM restK h)]

/- The bytes of an access. -/

/-- The bytes of an access are the first ones from its address on, inside the segment (20_memory.md R62, R64). -/
theorem mem_span_iff {w : Width} {a c : Addr} :
    c ∈ span w a ↔ ∃ k < w.bytes, c = offsetBy a (BitVec.ofNat 16 k) := by
  have e : span w a = (List.range w.bytes).map fun k => offsetBy a (BitVec.ofNat 16 k) := by
    cases w <;> simp [span, List.range_succ]
  simp [e, eq_comm]

/-- The bytes of a long word from the most significant. -/
theorem long_bytes (b0 b1 b2 b3 : Byte) :
    (b0 ++ b1 ++ b2 ++ b3).extractLsb' 24 8 = b0 ∧ (b0 ++ b1 ++ b2 ++ b3).extractLsb' 16 8 = b1 ∧
    (b0 ++ b1 ++ b2 ++ b3).extractLsb' 8 8 = b2 ∧ (b0 ++ b1 ++ b2 ++ b3).extractLsb' 0 8 = b3 := by
  have drop {n i : Nat} (x : BitVec n) (y : Byte) (h : 8 ≤ i) :
      (x ++ y).extractLsb' i 8 = x.extractLsb' (i - 8) 8 := BitVec.extractLsb'_append_eq_of_le h
  refine ⟨?_, ?_, ?_, extract_append_lo _ _⟩
  · exact (drop _ _ (by decide)).trans ((drop _ _ (by decide)).trans (extract_append_hi _ _))
  · exact (drop _ _ (by decide)).trans ((drop _ _ (by decide)).trans (extract_append_lo _ _))
  · exact (drop _ _ (by decide)).trans (extract_append_lo _ _)

/-- The byte `k` places after an address is the `k`-th of the value there from the most significant
(20_memory.md R64, R66). -/
theorem byteAt_eq_extract_peek (w : Width) (a : Addr) (s : State) {k : Nat} (hk : k < w.bytes) :
    byteAt s (offsetBy a (BitVec.ofNat 16 k)) = (peek w a s).extractLsb' (8 * (w.bytes - 1 - k)) 8 := by
  cases w with
  | byte =>
    obtain rfl : k = 0 := Nat.lt_one_iff.mp hk
    simp [peek]
  | word =>
    match k, hk with
    | 0, _ => simp [peek]
    | 1, _ => simp [peek]
  | long =>
    obtain ⟨e0, e1, e2, e3⟩ := long_bytes (byteAt s a) (byteAt s (offsetBy a 1#16)) (byteAt s (offsetBy a 2#16))
      (byteAt s (offsetBy a 3#16))
    match k, hk with
    | 0, _ => exact (congrArg (byteAt s) (offsetBy_zero a)).trans e0.symm
    | 1, _ => exact e1.symm
    | 2, _ => exact e2.symm
    | 3, _ => exact e3.symm

/-- A store that answers is answered by a load of its address: what can be written can be read. -/
theorem load_store_same {g : Guard} {w : Width} {a : Addr} {v : BitVec w.bits} {s t : State}
    (h : store g w a v s = .next t) : load w a t = .next v := by
  obtain ⟨lined, answered, _⟩ := store_next h
  obtain ⟨_, _, map⟩ := (frame_store h).environment
  have readable_span : (span w a).all (readable t) = true := List.all_eq_true.mpr fun c hc =>
    (readable_congr map c).trans (readable_of_writable (List.all_eq_true.mp answered c hc))
  rw [load_ready lined readable_span, peek_store_same h]

/- Accesses that stop. -/

/-- Bit 0 of an offset is its parity. -/
theorem odd_iff_bit (v : Word) : v.getLsbD 0 = true ↔ v.toNat % 2 = 1 := by simp [BitVec.getLsbD]

theorem even_iff_bit (v : Word) : v.getLsbD 0 = false ↔ v.toNat % 2 = 0 := by simp [BitVec.getLsbD]

/-- Bytes lie anywhere, words and long words at even offsets (20_memory.md R67). -/
theorem aligned_iff (w : Width) (a : Addr) : aligned w a = true ↔ w = .byte ∨ a.off.toNat % 2 = 0 := by
  cases w <;> simp only [aligned, Bool.not_eq_true', even_iff_bit, reduceCtorEq, true_or, false_or]

theorem load_misaligned {w : Width} {a : Addr} (s : State) (h : aligned w a = false) :
    load w a s = .refused .misaligned := by simp [load, h]

theorem store_misaligned {w : Width} {a : Addr} (g : Guard) (v : BitVec w.bits) (s : State) (h : aligned w a = false) :
    store g w a v s = .refused .misaligned := by simp [store, h]

/-- An aligned load of a byte that cannot be read has no step (20_memory.md R64). -/
theorem load_absent {w : Width} {a c : Addr} {s : State} (h : aligned w a = true) (hc : c ∈ span w a)
    (absent : readable s c = false) : load w a s = .fault .absentRead := by
  have gap : (span w a).all (readable s) = false := List.all_eq_false.mpr ⟨c, hc, by simp [absent]⟩
  simp [load, h, gap]

/-- An aligned store of a byte that cannot be written has no step (20_memory.md R65). -/
theorem store_absent {w : Width} {a c : Addr} {s : State} (g : Guard) (v : BitVec w.bits) (h : aligned w a = true)
    (hc : c ∈ span w a) (absent : writable s c = false) : store g w a v s = .fault .absentWrite := by
  have gap : (span w a).all (writable s) = false := List.all_eq_false.mpr ⟨c, hc, by simp [absent]⟩
  simp [store, h, gap]

/- Fetches that stop. -/

/-- A store into the next instruction word stops its fetch (20_memory.md R75). -/
theorem fetch_stale {s : State} (h : s.stale = true) : fetch s = .refused .storeIntoNextWord := if_pos h

/-- At an odd PC there is no fetch (20_memory.md R67, 10_state.md R28). -/
theorem fetch_odd {s : State} (h : s.stale = false) (odd : s.pc.off.toNat % 2 = 1) :
    fetch s = .refused .misaligned := by
  simp only [fetch, h, (odd_iff_bit _).mpr odd, Bool.false_eq_true, if_false, if_true]

/-- Words that decode to a reserved pattern stop the fetch with its reason (30_encoding.md R130). -/
theorem fetch_reserved {s : State} {why : Reserved} (h : s.stale = false) (even : s.pc.off.toNat % 2 = 0)
    (reserved : decodeWords (fetchWords 4 s.pc s) = .error (.reserved why)) :
    fetch s = .refused (.reservedEncoding why) := by
  simp only [fetch, h, (even_iff_bit _).mpr even, reserved, Bool.false_eq_true, if_false]

/-- Words that begin an instruction whose next word is missing have no step (30_encoding.md R133, log 15). -/
theorem fetch_truncated {s : State} (h : s.stale = false) (even : s.pc.off.toNat % 2 = 0)
    (short : decodeWords (fetchWords 4 s.pc s) = .error .truncated) : fetch s = .fault .absentFetch := by
  simp only [fetch, h, (even_iff_bit _).mpr even, short, Bool.false_eq_true, if_false]

/-- A first word that can be read is fetched. -/
theorem fetchWords_of_canRead {n : Nat} {a : Addr} {s : State} (h : canRead .word a s = true) :
    fetchWords (n + 1) a s = peek .word a s :: fetchWords n (offsetBy a 2#16) s := by
  obtain ⟨_, answered⟩ := Bool.and_eq_true_iff.mp h
  exact if_pos answered

/-- At an even address a word outside readable memory is not fetched, and neither is any after it. -/
theorem fetchWords_of_absent {n : Nat} {a : Addr} {s : State} (even : a.off.toNat % 2 = 0)
    (h : canRead .word a s = false) : fetchWords (n + 1) a s = [] := by
  rw [canRead, (aligned_iff .word a).mpr (.inr even), Bool.true_and] at h
  exact if_neg (by simp [h])

/-- Words that stay no instruction whatever follows them are reserved, not awaited (30_encoding.md R130, R133). -/
theorem decodeWords_reserved {ws : List Word}
    (h : ∀ more i rest, decodeWords (ws ++ more) ≠ .ok (i, rest)) :
    ∃ why, decodeWords ws = .error (.reserved why) := by
  cases hd : decodeWords ws with
  | ok x =>
    obtain ⟨i, rest⟩ := x
    exact absurd hd (by simpa using h [] i rest)
  | error e =>
    cases e with
    | truncated =>
      obtain ⟨more, i, rest, he⟩ := decodeWords_truncated ws hd
      exact absurd he (h more i rest)
    | reserved why => exact ⟨why, rfl⟩

/-- Without a reset request, an event or a halt, a step is a fetch and the instruction (60_exceptions.md R320). -/
theorem step_at_instruction {s : State} (reset : (sample s).resetReq = false) (seg : (sample s).fcw.seg = true)
    (quiet : pendingEvent (sample s) = none) (running : (sample s).halted = false) :
    step s = (fetch (sample s)).andThen fun i => exec i (sample s) := by
  rcases step_cases s with ⟨h, _⟩ | ⟨_, h, _⟩ | ⟨_, _, _, h, _⟩ | ⟨_, _, _, h, _⟩ | ⟨_, _, _, _, e⟩
  · rw [reset] at h; cases h
  · rw [seg] at h; cases h
  · rw [quiet] at h; cases h
  · rw [running] at h; cases h
  · exact e

end Sys2Proof.Machine

namespace Sys2Proof

open Machine

/-- Settles O8, from index 0 on. -/
theorem canonicalMemoryUnique : Obligations.CanonicalMemoryUnique := fun _ _ hm hk h => eq_of_read_eq hm hk h

/-- Settles O9: the load, each byte of the value it answers, and the frame of the store. -/
theorem storedBytesReadBack : Obligations.StoredBytesReadBack := by
  refine fun g w a v s t h => ⟨load_store_same h, fun k hk => ?_, fun c outside => ?_⟩
  · rw [byteAt_eq_extract_peek w a t hk, peek_store_same h]
  · refine (frame_store h).memory c fun hc => ?_
    obtain ⟨k, hk, e⟩ := mem_span_iff.mp hc
    exact outside k hk e

/-- Settles O10: the parity of the offset decides between the refusal and the access. -/
theorem accessStops : Obligations.AccessStops := by
  refine fun g w a v s => ⟨fun wide odd => ?_, fun lined c hc => ?_⟩
  · have misaligned : aligned w a = false := by
      rw [← Bool.not_eq_true, aligned_iff]
      rintro (byte | even)
      · exact wide byte
      · omega
    exact ⟨load_misaligned s misaligned, store_misaligned g v s misaligned⟩
  · have ready : aligned w a = true := (aligned_iff w a).mpr lined
    exact ⟨load_absent ready hc, store_absent g v ready hc⟩

/-- Settles O14: the fetch stops, in the order of its checks, and the step with it. -/
theorem fetchStops : Obligations.FetchStops := by
  intro s reset seg quiet running u
  have atFetch : step s = (fetch u).andThen fun i => exec i u := step_at_instruction reset seg quiet running
  have stops {r : Refusal} (h : fetch u = .refused r) : step s = .refused r := by rw [atFetch, h, andThen_refused]
  refine ⟨fun stale => stops (fetch_stale stale), fun look odd => stops (fetch_odd look odd),
    fun look even => ⟨?_, ?_, ?_⟩⟩
  · exact fun why h => stops (fetch_reserved look even h)
  · intro present never
    obtain ⟨why, h⟩ := decodeWords_reserved (ws := fetchWords 4 u.pc u) fun more => by
      rw [fetchWords_of_canRead present]
      exact never _
    exact ⟨why, stops (fetch_reserved look even h)⟩
  · intro absent
    have none_fetched : decodeWords (fetchWords 4 u.pc u) = .error .truncated := by
      rw [fetchWords_of_absent even absent]; decide
    rw [atFetch, fetch_truncated look even none_fetched, andThen_fault]

end Sys2Proof
end

section
/-! PROOFS. What the decoder answers is what the encoder writes (30_encoding.md R92 to R95, R110 to R122, R131). Each
part of the decoder answers only what its words encode; a row of the opcode map is then its part and the encoding of
its instruction. -/

namespace Sys2Proof

/- Answers of the decoder. -/

/-- Every answer of the decoder `d`, with the words it leaves, satisfies `P`. -/
def Yields {α : Type} (d : Dec α) (P : α → List Word → Prop) : Prop := ∀ a rest, d = .ok (a, rest) → P a rest

section
variable {α β : Type} {P : α → List Word → Prop} {Q : β → List Word → Prop}

theorem Yields.ok {a : α} {ws : List Word} (h : P a ws) : Yields (.ok (a, ws)) P := by
  rintro _ _ ⟨⟩; exact h

theorem Yields.error (e : DecodeError) : Yields (.error e) P := by rintro _ _ ⟨⟩

theorem Yields.reserved {why : Reserved} : Yields (Dec.reserved why) P := .error _

theorem Yields.ite {c : Prop} [Decidable c] {d e : Dec α} (hd : c → Yields d P) (he : ¬c → Yields e P) :
    Yields (if c then d else e) P := by
  split
  · next h => exact hd h
  · next h => exact he h

theorem Yields.andThen {d : Dec α} {f : α → List Word → Dec β} (h : Yields d P)
    (hf : ∀ a ws, P a ws → Yields (f a ws) Q) : Yields (d.andThen f) Q := by
  cases d with
  | error e => exact .error e
  | ok x => exact hf x.1 x.2 (h _ _ rfl)

theorem Yields.map {d : Dec α} {f : α → β} (h : Yields d P) (hf : ∀ a ws, P a ws → Q (f a) ws) :
    Yields (d.map f) Q :=
  h.andThen fun a ws ha => .ok (hf a ws ha)

end

/- Fields of a word, joined again, and the values of a field. -/

/-- Two fields that stand next to each other are one. -/
theorem extract_join {n : Nat} (w : BitVec n) (lo a b : Nat) :
    w.extractLsb' (lo + a) b ++ w.extractLsb' lo a = w.extractLsb' lo (b + a) :=
  BitVec.extractLsb'_append_extractLsb'_eq_extractLsb' rfl

/-- A first word is its four fields (30_encoding.md R91). -/
theorem firstOf_extract (w : Word) :
    firstOf (w.extractLsb' 14 2) (w.extractLsb' 8 6) (w.extractLsb' 4 4) (w.extractLsb' 0 4) = w := by
  rw [firstOf, extract_join w 8 6 2, extract_join w 4 4 8, extract_join w 0 4 12]
  exact BitVec.extractLsb'_eq_self

/-- A second operation word is its three fields (30_encoding.md R92). -/
theorem secondOf_extract (w : Word) (h : w.extractLsb' 12 4 = 0#4) :
    secondOf (w.extractLsb' 8 4) (w.extractLsb' 4 4) (w.extractLsb' 0 4) = w := by
  rw [secondOf, ← h, extract_join w 8 4 4, extract_join w 4 4 8, extract_join w 0 4 12]
  exact BitVec.extractLsb'_eq_self

theorem ofBool_getLsbD {n : Nat} (w : BitVec n) (k : Nat) : BitVec.ofBool (w.getLsbD k) = w.extractLsb' k 1 := by
  apply BitVec.eq_of_getLsbD_eq
  intro i hi
  obtain rfl : i = 0 := by omega
  simp

/-- An address word is its top bit, its segment and its low byte (30_encoding.md R94). -/
theorem addrWord_extract (w : Word) :
    BitVec.ofBool (w.getLsbD 15) ++ w.extractLsb' 8 7 ++ w.extractLsb' 0 8 = w := by
  rw [ofBool_getLsbD, extract_join w 8 7 1, extract_join w 0 8 8]
  exact BitVec.extractLsb'_eq_self

/-- A first word is its opcode byte and its low byte. -/
theorem firstOf_bytes (m : BitVec 2) (op : BitVec 6) (f1 f2 : BitVec 4) :
    (m ++ op : BitVec (2 + 6)) ++ (f1 ++ f2 : BitVec (4 + 4)) = firstOf m op f1 f2 := by
  rw [firstOf, BitVec.append_assoc (x₁ := m ++ op)]
  rfl

theorem mode_cases {P : BitVec 2 → Prop} (m0 : P 0#2) (m1 : P 1#2) (m2 : P 2#2) (m3 : P 3#2) (m : BitVec 2) : P m := by
  have : ∀ m : BitVec 2, m = 0#2 ∨ m = 1#2 ∨ m = 2#2 ∨ m = 3#2 := by decide
  obtain rfl | rfl | rfl | rfl := this m <;> assumption

theorem digit_cases {P : BitVec 4 → Prop} (d0 : P 0x0#4) (d1 : P 0x1#4) (d2 : P 0x2#4) (d3 : P 0x3#4) (d4 : P 0x4#4)
    (d5 : P 0x5#4) (d6 : P 0x6#4) (d7 : P 0x7#4) (d8 : P 0x8#4) (d9 : P 0x9#4) (dA : P 0xA#4) (dB : P 0xB#4)
    (dC : P 0xC#4) (dD : P 0xD#4) (dE : P 0xE#4) (dF : P 0xF#4) (d : BitVec 4) : P d := by
  have : ∀ d : BitVec 4, d = 0x0#4 ∨ d = 0x1#4 ∨ d = 0x2#4 ∨ d = 0x3#4 ∨ d = 0x4#4 ∨ d = 0x5#4 ∨ d = 0x6#4 ∨
      d = 0x7#4 ∨ d = 0x8#4 ∨ d = 0x9#4 ∨ d = 0xA#4 ∨ d = 0xB#4 ∨ d = 0xC#4 ∨ d = 0xD#4 ∨ d = 0xE#4 ∨ d = 0xF#4 := by
    decide
  obtain rfl | rfl | rfl | rfl | rfl | rfl | rfl | rfl | rfl | rfl | rfl | rfl | rfl | rfl | rfl | rfl := this d <;>
    assumption

/-- The operation bits of a first word are two bits and a digit: the rows of the opcode map. -/
theorem operation_cases {P : BitVec 6 → Prop} (r0 : ∀ d : BitVec 4, P (0#2 ++ d)) (r1 : ∀ d : BitVec 4, P (1#2 ++ d))
    (r2 : ∀ d : BitVec 4, P (2#2 ++ d)) (r3 : ∀ d : BitVec 4, P (3#2 ++ d)) (op : BitVec 6) : P op := by
  have split : op.extractLsb' 4 2 ++ op.extractLsb' 0 4 = op := append_extract (m := 2) (n := 4) op
  rw [← split]
  generalize op.extractLsb' 0 4 = d
  cases op.extractLsb' 4 2 using mode_cases with
  | m0 => exact r0 d
  | m1 => exact r1 d
  | m2 => exact r2 d
  | m3 => exact r3 d

theorem digit_of_low {f : BitVec 4} (h : f.getLsbD 3 = false) : 0#1 ++ f.extractLsb' 0 3 = f := by
  revert f; decide

theorem digit_of_high {f : BitVec 4} (h : f.getLsbD 3 = true) : 1#1 ++ f.extractLsb' 0 3 = f := by
  revert f; decide

theorem CC.bits_ofBits (f : BitVec 4) : (CC.ofBits f).bits = f := by
  cases f using digit_cases <;> rfl

/-- Only the selectors 2 to 7 name a control register (10_state.md R38). -/
theorem Ctl.bits_ofBits {f : BitVec 3} {c : Ctl} (h : Ctl.ofBits f = some c) : c.bits = f := by
  revert f c; decide

/- Parts that follow the first word (30_encoding.md R94, R95, R100). -/

theorem takeWord_yields (ws : List Word) : Yields (takeWord ws) fun v rest => v :: rest = ws := by
  cases ws with
  | nil => exact .error _
  | cons w ws => exact .ok rfl

theorem takeAddr_yields (ws : List Word) : Yields (takeAddr ws) fun a rest => a.encode ++ rest = ws := by
  cases ws with
  | nil => exact .error _
  | cons w ws =>
    have join := addrWord_extract w
    rw [takeAddr.eq_def]
    refine .ite (fun long => .ite (fun low => ?_) fun _ => .reserved) fun short => .ok ?_
    · cases ws with
      | nil => exact .error _
      | cons o ws =>
        rw [long, low] at join
        exact .ok (congrArg (· :: o :: ws) join)
    · rw [Bool.not_eq_true] at short
      rw [short] at join
      exact congrArg (· :: ws) join

theorem takeDirect_yields (f : Reg) (ws : List Word) :
    Yields (takeDirect f ws) fun d rest => d.field = f ∧ d.encode ++ rest = ws := by
  refine (takeAddr_yields ws).map fun a rest h => ?_
  split
  · next zero => exact ⟨zero.symm, h⟩
  · exact ⟨rfl, h⟩

theorem takeMem_yields (m : BitVec 2) (f : Reg) (ws : List Word) :
    Yields (takeMem m.toNat f ws) fun o rest => o.mode = m ∧ o.field = f ∧ o.encode ++ rest = ws := by
  cases m using mode_cases with
  | m0 => exact .ok ⟨rfl, rfl, rfl⟩
  | m1 => exact (takeDirect_yields f ws).map fun d rest h => ⟨rfl, h⟩
  | m2 | m3 => exact .reserved

theorem takeOpd_yields (m : BitVec 2) (f : Reg) (ws : List Word) :
    Yields (takeOpd m.toNat f ws) fun o rest => o.mode = m ∧ o.field = f ∧ o.encode ++ rest = ws := by
  cases m using mode_cases with
  | m2 => exact .ok ⟨rfl, rfl, rfl⟩
  | m0 | m1 | m3 => exact (takeMem_yields _ f ws).map fun o rest h => h

theorem takeImm8_yields (ws : List Word) : Yields (takeImm8 ws) fun v rest => imm8Word v :: rest = ws := by
  cases ws with
  | nil => exact .error _
  | cons w ws =>
    refine .ite (fun same => .ok ?_) fun _ => .reserved
    have join : imm8Word (w.extractLsb' 0 8) = w := by
      conv_rhs => rw [← word_join w, same]
      rfl
    rw [join]

theorem takeImm_yields (w : Width) (ws : List Word) : Yields (takeImm w ws) fun v rest => immWords w v ++ rest = ws := by
  cases w with
  | byte => exact takeImm8_yields ws
  | word => exact takeWord_yields ws
  | long =>
    rcases ws with _ | ⟨hi, _ | ⟨lo, ws⟩⟩
    · exact .error _
    · exact .error _
    · refine .ok ?_
      simp only [immWords, word_hi, word_lo]
      rfl

theorem takeSrc_yields (w : Width) (m : BitVec 2) (f : Reg) (ws : List Word) :
    Yields (takeSrc w m.toNat f ws) fun o rest => o.mode = m ∧ o.field = f ∧ o.encode w ++ rest = ws := by
  cases m using mode_cases with
  | m0 =>
    refine .ite (fun zero => ?_) fun _ => .ok ⟨rfl, rfl, rfl⟩
    exact (takeImm_yields w ws).map fun v rest h => ⟨rfl, zero.symm, h⟩
  | m2 => exact .ok ⟨rfl, rfl, rfl⟩
  | m1 | m3 => exact (takeMem_yields _ f ws).map fun o rest h => h

/- Instructions: what is answered, before the words that are left, encodes the words read. -/

/-- Every instruction that `d` answers is encoded by the words of `ws` before those that `d` leaves. -/
def Reads (ws : List Word) (d : Dec Instr) : Prop := Yields d fun i rest => encode i ++ rest = ws

section
variable {m : BitVec 2} {op : BitVec 6} {f1 f2 : BitVec 4} {ws : List Word}

theorem reads_takeWord {w : Word} {mk : Word → Instr} (he : ∀ v, encode (mk v) = [w, v]) :
    Reads (w :: ws) ((takeWord ws).map mk) := by
  refine (takeWord_yields ws).map fun v rest h => ?_
  rw [he, ← h]; rfl

theorem reads_takeSrc {w : Width} {mk : Src w.bits → Instr} (he : ∀ src, encode (mk src) = encodeTwo w op f2 src) :
    Reads (firstOf m op f1 f2 :: ws) ((takeSrc w m.toNat f1 ws).map mk) := by
  refine (takeSrc_yields w m f1 ws).map fun src rest ⟨mode, field, h⟩ => ?_
  rw [he, encodeTwo, mode, field, ← h]; rfl

theorem reads_takeOpd {mk : Opd → Instr} (he : ∀ o, encode (mk o) = encodeOpd op o f2) :
    Reads (firstOf m op f1 f2 :: ws) ((takeOpd m.toNat f1 ws).map mk) := by
  refine (takeOpd_yields m f1 ws).map fun o rest ⟨mode, field, h⟩ => ?_
  rw [he, encodeOpd, mode, field, ← h]; rfl

theorem reads_takeStack {mk : Opd → Instr} (he : ∀ o, encode (mk o) = encodeStack op f1 o) :
    Reads (firstOf m op f1 f2 :: ws) ((takeOpd m.toNat f2 ws).map mk) := by
  refine (takeOpd_yields m f2 ws).map fun o rest ⟨mode, field, h⟩ => ?_
  rw [he, encodeStack, mode, field, ← h]; rfl

theorem reads_takeMem {mk : Mem → Instr} (he : ∀ o, encode (mk o) = encodeMem op o f2) :
    Reads (firstOf m op f1 f2 :: ws) ((takeMem m.toNat f1 ws).map mk) := by
  refine (takeMem_yields m f1 ws).map fun o rest ⟨mode, field, h⟩ => ?_
  rw [he, encodeMem, mode, field, ← h]; rfl

theorem reads_takeDirect {mk : Direct → Instr} (he : ∀ d, encode (mk d) = firstOf m op d.field f2 :: d.encode) :
    Reads (firstOf m op f1 f2 :: ws) ((takeDirect f1 ws).map mk) := by
  refine (takeDirect_yields f1 ws).map fun d rest ⟨field, h⟩ => ?_
  rw [he, field, ← h]; rfl

/-- A memory operand and an immediate of width `w` (30_encoding.md R111). -/
theorem reads_takeMemImm {w : Width} {mk : Mem → BitVec w.bits → Instr}
    (he : ∀ o v, encode (mk o v) = encodeMem op o f2 ++ immWords w v) :
    Reads (firstOf m op f1 f2 :: ws)
      (Dec.andThen (takeMem m.toNat f1 ws) fun o ws => (takeImm w ws).map fun v => mk o v) := by
  refine (takeMem_yields m f1 ws).andThen fun o more ⟨mode, field, h⟩ =>
    (takeImm_yields w more).map fun v rest hv => ?_
  rw [he, encodeMem, mode, field, List.append_assoc, hv, ← h]; rfl

/-- LDM: the second operation word stands before the address (30_encoding.md R113, R133). -/
theorem reads_takeMultiple {k : BitVec 4} {mk : Mem → Reg → BitVec 4 → Instr}
    (he : ∀ o r n, encode (mk o r n) = encodeMultiple k o r n) :
    Reads (firstOf m 0x1C f1 k :: ws) (takeMultiple m.toNat f1 ws mk) := by
  refine (takeWord_yields ws).andThen fun v more hv => .ite (fun ⟨top, mid⟩ => ?_) fun _ => .reserved
  refine (takeMem_yields m f1 more).map fun o rest ⟨mode, field, h⟩ => ?_
  have join := secondOf_extract v top
  rw [mid] at join
  rw [he, encodeMultiple, mode, field, ← hv, ← h]
  exact congrArg (fun w => firstOf m 0x1C f1 k :: w :: (o.encode ++ rest)) join

/-- A second operation word read field by field (30_encoding.md R92). -/
theorem reads_takeNibbles {g : Reg → BitVec 4 → BitVec 4 → Option Instr}
    (he : ∀ a b c i, g a b c = some i → encode i = encodeBlock m op f1 f2 a b c) :
    Reads (firstOf m op f1 f2 :: ws) (takeNibbles ws g) := by
  refine (takeWord_yields ws).andThen fun v rest hv => .ite (fun top => ?_) fun _ => .reserved
  split
  · next i hi =>
    refine .ok ?_
    rw [he _ _ _ _ hi, encodeBlock, secondOf_extract v top, ← hv]; rfl
  · exact .reserved

theorem reads_takeOneReg {mk : Reg → Instr} (he : ∀ r, encode (mk r) = encodeBlock m op f1 f2 r 0 0) :
    Reads (firstOf m op f1 f2 :: ws) (takeOneReg ws mk) := by
  refine reads_takeNibbles fun a b c i h => ?_
  obtain ⟨⟨rfl, rfl⟩, ⟨⟩⟩ := Option.ite_none_right_eq_some.mp h
  exact he a

theorem reads_takeBlock {single repeating : Reg → Reg → Instr}
    (hs : ∀ x r, encode (single x r) = encodeBlock m op f1 f2 r x 8)
    (hr : ∀ x r, encode (repeating x r) = encodeBlock m op f1 f2 r x 0) :
    Reads (firstOf m op f1 f2 :: ws) (takeBlock ws single repeating) := by
  refine reads_takeNibbles fun r x k i h => ?_
  split at h
  · next k8 => cases h; rw [hs, k8]
  · obtain ⟨rfl, ⟨⟩⟩ := Option.ite_none_right_eq_some.mp h
    exact hr x r

theorem reads_takeCompare {mk : Reg → Reg → CC → Instr}
    (he : ∀ d r cc, encode (mk d r cc) = encodeBlock m op f1 f2 r d cc.bits) :
    Reads (firstOf m op f1 f2 :: ws) (takeCompare ws mk) := by
  refine reads_takeNibbles fun r d c i h => ?_
  cases h
  rw [he, CC.bits_ofBits]

theorem reads_takeTranslate {k : BitVec 4} {mk : Reg → Reg → Instr}
    (he : ∀ s r, encode (mk s r) = encodeBlock m op f1 f2 r s k) :
    Reads (firstOf m op f1 f2 :: ws) (takeTranslate ws k mk) := by
  refine reads_takeNibbles fun r s c i h => ?_
  obtain ⟨rfl, ⟨⟩⟩ := Option.ite_none_right_eq_some.mp h
  exact he s r

end

/- Instructions that stand in one word, after a choice by the mode or a field. -/

section
variable {m : BitVec 2} {op : BitVec 6} {f1 f2 : BitVec 4} {ws : List Word} {i : Instr}

theorem reads_one {w : Word} (he : encode i = [w]) : Reads (w :: ws) (.ok (i, ws)) :=
  .ok (congrArg (· ++ ws) he)

/-- An instruction of one word where a field is 0. -/
theorem reads_zero {f : BitVec 4} {w : BitVec 4 → Word} (he : encode i = [w 0]) :
    Reads (w f :: ws) (if f = 0 then .ok (i, ws) else Dec.reserved .opcode) :=
  .ite (fun zero => reads_one (by rw [he, zero])) fun _ => .reserved

/-- Mode 10 chooses an instruction of one word (30_encoding.md R111). -/
theorem reads_ifRegister {d : Dec Instr} (he : encode i = [firstOf 2 op f1 f2])
    (hd : Reads (firstOf m op f1 f2 :: ws) d) :
    Reads (firstOf m op f1 f2 :: ws) (if m.toNat = 2 then .ok (i, ws) else d) := by
  refine .ite (fun mode => ?_) fun _ => hd
  obtain rfl : m = 2#2 := BitVec.eq_of_toNat_eq mode
  exact reads_one he

end

/- The groups of the opcode map (30_encoding.md R111 to R121), digit by digit. -/

section
variable {m : BitVec 2} {op : BitVec 6} {f1 : BitVec 4} {ws : List Word}

theorem parseOneByte_reads (f2 : BitVec 4) : Reads (firstOf m 0x0C f1 f2 :: ws) (parseOneByte m.toNat f1 f2 ws) := by
  cases f2 using digit_cases with
  | d0 | d2 | d4 | d6 | d8 => exact reads_takeOpd fun _ => rfl
  | d1 => exact reads_ifRegister rfl (reads_takeMemImm (w := .byte) fun _ _ => rfl)
  | d5 => exact reads_takeMemImm (w := .byte) fun _ _ => rfl
  | d9 => exact reads_ifRegister rfl .reserved
  | d3 | d7 | dA | dB | dC | dD | dE | dF => exact .reserved

theorem parseOneWord_reads (f2 : BitVec 4) : Reads (firstOf m 0x0D f1 f2 :: ws) (parseOneWord m.toNat f1 f2 ws) := by
  cases f2 using digit_cases with
  | d0 | d2 | d4 | d6 | d8 => exact reads_takeOpd fun _ => rfl
  | d1 | d5 => exact reads_ifRegister rfl (reads_takeMemImm (w := .word) fun _ _ => rfl)
  | d3 => exact reads_ifRegister rfl .reserved
  | d7 =>
    refine .ite (fun ⟨mode, zero⟩ => ?_) fun _ => .reserved
    obtain rfl : m = 2#2 := BitVec.eq_of_toNat_eq mode
    exact reads_one (by rw [zero]; rfl)
  | d9 =>
    refine .ite (fun mode => ?_) fun _ => .reserved
    obtain rfl : m = 0#2 := BitVec.eq_of_toNat_eq mode
    exact reads_takeWord fun _ => rfl
  | dA | dB | dC | dD | dE | dF => exact .reserved

theorem parseMultiple_reads (f2 : BitVec 4) : Reads (firstOf m 0x1C f1 f2 :: ws) (parseMultiple m.toNat f1 f2 ws) := by
  cases f2 using digit_cases with
  | d1 | d9 => exact .ite (fun _ => .reserved) fun _ => reads_takeMultiple fun _ _ _ => rfl
  | d8 => exact reads_takeOpd fun _ => rfl
  | d0 | d2 | d3 | d4 | d5 | d6 | d7 | dA | dB | dC | dD | dE | dF => exact .reserved

/-- The dynamic form of a bit instruction: mode 00 with field 0 (30_encoding.md R114). -/
theorem reads_dynamic {f2 : BitVec 4} {dynamic : Reg → Reg → Instr} {d : Dec Instr}
    (hdyn : ∀ d s, encode (dynamic d s) = encodeDyn op d s) (hd : Reads (firstOf m op f1 f2 :: ws) d) :
    Reads (firstOf m op f1 f2 :: ws)
      (if m.toNat = 0 ∧ f1 = 0 then takeOneReg ws fun d => dynamic d f2 else d) := by
  refine .ite (fun ⟨mode, zero⟩ => ?_) fun _ => hd
  obtain rfl : m = 0#2 := BitVec.eq_of_toNat_eq mode
  subst zero
  exact reads_takeOneReg fun d => hdyn d f2

theorem parseBitByte_reads {f2 : BitVec 4} {static : Opd → BitVec 3 → Instr} {dynamic : Reg → Reg → Instr}
    (hs : ∀ o b, encode (static o b) = encodeOpd op o (0#1 ++ b)) (hdyn : ∀ d s, encode (dynamic d s) = encodeDyn op d s) :
    Reads (firstOf m op f1 f2 :: ws) (parseBitByte m.toNat f1 f2 ws static dynamic) := by
  refine reads_dynamic hdyn (.ite (fun _ => .reserved) fun low => reads_takeOpd fun o => ?_)
  rw [hs, digit_of_low ((Bool.not_eq_true _).mp low)]

theorem parseBitWord_reads {f2 : BitVec 4} {static : Opd → BitVec 4 → Instr} {dynamic : Reg → Reg → Instr}
    (hs : ∀ o b, encode (static o b) = encodeOpd op o b) (hdyn : ∀ d s, encode (dynamic d s) = encodeDyn op d s) :
    Reads (firstOf m op f1 f2 :: ws) (parseBitWord m.toNat f1 f2 ws static dynamic) :=
  reads_dynamic hdyn (reads_takeOpd fun o => hs o f2)

theorem parseStore_reads {f2 : BitVec 4} {store : Mem → Reg → Instr} {tcc : CC → Reg → Instr}
    (hs : ∀ o s, encode (store o s) = encodeMem op o s) (ht : ∀ cc d, encode (tcc cc d) = [firstOf 2 op d cc.bits]) :
    Reads (firstOf m op f1 f2 :: ws) (parseStore m.toNat f1 f2 ws store tcc) :=
  reads_ifRegister (by rw [ht, CC.bits_ofBits]) (reads_takeMem fun o => hs o f2)

/-- RA where the base field is 0, else BA, both with a displacement (30_encoding.md R100, R115). -/
theorem encode_relativeOrBased {f : Reg} {relative based : Word → Instr} {w : Word}
    (hr : f = 0 → ∀ disp, encode (relative disp) = [w, disp]) (hb : ∀ disp, encode (based disp) = [w, disp])
    (disp : Word) : encode (if f = 0 then relative disp else based disp) = [w, disp] := by
  split
  · next zero => exact hr zero disp
  · exact hb disp

theorem parseIoByte_reads (f2 : BitVec 4) : Reads (firstOf 0 0x3A f1 f2 :: ws) (parseIoByte f1 f2 ws) := by
  cases f2 using digit_cases with
  | d0 | d1 | d2 | d3 | d8 | d9 | dA | dB => exact reads_takeBlock (fun _ _ => rfl) fun _ _ => rfl
  | d4 | d5 | d6 | d7 => exact reads_takeWord fun _ => rfl
  | dC | dD | dE | dF => exact .reserved

theorem parseIoWord_reads (f2 : BitVec 4) : Reads (firstOf 0 0x3B f1 f2 :: ws) (parseIoWord f1 f2 ws) := by
  cases f2 using digit_cases with
  | d0 | d1 | d2 | d3 | d8 | d9 | dA | dB => exact reads_takeBlock (fun _ _ => rfl) fun _ _ => rfl
  | d4 | d5 | d6 | d7 => exact reads_takeWord fun _ => rfl
  | dC | dD | dE | dF => exact .reserved

theorem parse3x_reads (d f2 : BitVec 4) : Reads (firstOf 0 (3#2 ++ d) f1 f2 :: ws) (parse3x d.toNat f1 f2 ws) := by
  cases d using digit_cases with
  | d0 | d1 | d2 | d3 | d4 | d5 | d7 => exact reads_takeWord (encode_relativeOrBased (by rintro rfl _; rfl) fun _ => rfl)
  | d9 => exact reads_zero (w := firstOf 0 0x39 f1) rfl
  | dA => exact parseIoByte_reads f2
  | dB => exact parseIoWord_reads f2
  | dC | dD | dE | dF => exact reads_one rfl
  | d6 | d8 => exact .reserved

theorem parse7B_reads (f2 : BitVec 4) : Reads (firstOf 1 0x3B f1 f2 :: ws) (parse7B f1 f2 ws) := by
  cases f2 using digit_cases with
  | d0 => exact reads_zero (w := (firstOf 1 0x3B · 0x0)) rfl
  | d8 => exact reads_zero (w := (firstOf 1 0x3B · 0x8)) rfl
  | d9 => exact reads_zero (w := (firstOf 1 0x3B · 0x9)) rfl
  | dA => exact reads_zero (w := (firstOf 1 0x3B · 0xA)) rfl
  | dD => exact reads_one rfl
  | d1 | d2 | d3 | d4 | d5 | d6 | d7 | dB | dC | dE | dF => exact .reserved

/-- DI and EI: bit 2 of the low digit is the direction, bits 1 and 0 are the interrupts (30_encoding.md R95, R116). -/
theorem parse7C_reads (f2 : BitVec 4) : Reads (firstOf 1 0x3C f1 f2 :: ws) (parse7C f1 f2 ws) := by
  refine .ite (fun ⟨zero, low⟩ => ?_) fun _ => .reserved
  subst zero
  have field : intField (f2.getLsbD 2) (!f2.getLsbD 1) (!f2.getLsbD 0) = f2 := by revert f2; decide
  refine .ite (fun enable => reads_one ?_) fun disable => reads_one ?_
  · rw [enable] at field
    exact congrArg (fun k => [firstOf 1 0x3C 0 k]) field
  · rw [Bool.not_eq_true] at disable
    rw [disable] at field
    exact congrArg (fun k => [firstOf 1 0x3C 0 k]) field

/-- LDCTL: bit 3 of the low digit is the direction (30_encoding.md R116). -/
theorem parse7D_reads (f2 : BitVec 4) : Reads (firstOf 1 0x3D f1 f2 :: ws) (parse7D f1 f2 ws) := by
  unfold parse7D
  split
  · exact .reserved
  · next c h =>
    have code := Ctl.bits_ofBits h
    refine reads_one ?_
    split
    · next write =>
      have field := digit_of_high write
      rw [← code] at field
      exact congrArg (fun k => [firstOf 1 0x3D f1 k]) field
    · next read =>
      have field := digit_of_low ((Bool.not_eq_true _).mp read)
      rw [← code] at field
      exact congrArg (fun k => [firstOf 1 0x3D f1 k]) field

theorem sc_reads (f2 : BitVec 4) : Reads (firstOf 1 0x3F f1 f2 :: ws) (.ok (.sc (f1 ++ f2), ws)) := by
  refine reads_one ?_
  show [firstOf 1 0x3F ((f1 ++ f2).extractLsb' 4 4) ((f1 ++ f2).extractLsb' 0 4)] = _
  rw [extract_append_hi, extract_append_lo]

theorem parse7x_reads (d f2 : BitVec 4) : Reads (firstOf 1 (3#2 ++ d) f1 f2 :: ws) (parse7x d.toNat f1 f2 ws) := by
  cases d using digit_cases with
  | d0 | d1 | d2 | d3 | d4 | d5 | d7 => exact reads_takeOneReg fun _ => rfl
  | d6 => exact reads_takeDirect fun _ => rfl
  | d9 =>
    refine .ite (fun zero => ?_) fun _ => .reserved
    subst zero
    exact reads_takeDirect fun _ => rfl
  | dA => exact .ite (fun ⟨zero1, zero2⟩ => reads_one (by rw [zero1, zero2]; rfl)) fun _ => .reserved
  | dB => exact parse7B_reads f2
  | dC => exact parse7C_reads f2
  | dD => exact parse7D_reads f2
  | dF => exact sc_reads f2
  | d8 | dE => exact .reserved

/-- The count word of a static shift is the count to the left or minus the count to the right (30_encoding.md R95). -/
theorem reads_takeShift {w : Word} {left right : Nat → Instr} (hl : ∀ n, encode (left n) = [w, leftWord n])
    (hr : ∀ n, encode (right n) = [w, rightWord n]) : Reads (w :: ws) (takeShift ws left right) := by
  refine reads_takeWord fun v => ?_
  split
  · rw [hr, rightWord, BitVec.ofNat_toNat, BitVec.setWidth_eq, BitVec.neg_neg]
  · rw [hl, leftWord, BitVec.ofNat_toNat, BitVec.setWidth_eq]

/-- The count word of a static byte shift is its low byte (30_encoding.md R95). -/
theorem reads_takeShiftByte {w : Word} {left right : Nat → Instr} (hl : ∀ n, encode (left n) = [w, leftWord n])
    (hr : ∀ n, encode (right n) = [w, rightWordByte n]) : Reads (w :: ws) (takeShiftByte ws left right) := by
  refine (takeWord_yields ws).andThen fun v rest hv => .ite (fun high => .ok ?_) fun _ => .reserved
  have join := word_join v
  rw [high] at join
  have encoded : encode (if (v.extractLsb' 0 8).getLsbD 7 then right (-v.extractLsb' 0 8).toNat
      else left (v.extractLsb' 0 8).toNat) = [w, v] := by
    split
    · rw [hr, rightWordByte, BitVec.ofNat_toNat, BitVec.setWidth_eq, BitVec.neg_neg]; exact congrArg ([w, ·]) join
    · rw [hl, leftWord, BitVec.ofNat_toNat, BitVec.setWidth_eq_append (by omega)]; exact congrArg ([w, ·]) join
  rw [← hv]
  exact congrArg (· ++ rest) encoded

theorem parseShiftByte_reads (f2 : BitVec 4) : Reads (firstOf 2 0x32 f1 f2 :: ws) (parseShiftByte f1 f2 ws) := by
  cases f2 using digit_cases with
  | d0 | d2 | d4 | d6 | d8 | dA | dC | dE => exact reads_one rfl
  | d1 | d9 => exact reads_takeShiftByte (fun _ => rfl) fun _ => rfl
  | d3 | dB => exact reads_takeOneReg fun _ => rfl
  | d5 | d7 | dD | dF => exact .reserved

theorem parseShiftWord_reads (f2 : BitVec 4) : Reads (firstOf 2 0x33 f1 f2 :: ws) (parseShiftWord f1 f2 ws) := by
  cases f2 using digit_cases with
  | d0 | d2 | d4 | d6 | d8 | dA | dC | dE => exact reads_one rfl
  | d1 | d5 | d9 | dD => exact reads_takeShift (fun _ => rfl) fun _ => rfl
  | d3 | d7 | dB | dF => exact reads_takeOneReg fun _ => rfl

theorem parseTranslate_reads (f2 : BitVec 4) : Reads (firstOf 2 0x38 f1 f2 :: ws) (parseTranslate f1 f2 ws) := by
  cases f2 using digit_cases with
  | d0 | d2 | d4 | d6 | d8 | dA | dC | dE => exact reads_takeTranslate fun _ _ => rfl
  | d1 | d3 | d5 | d7 | d9 | dB | dD | dF => exact .reserved

theorem parseBlockByte_reads (f2 : BitVec 4) : Reads (firstOf 2 0x3A f1 f2 :: ws) (parseBlockByte f1 f2 ws) := by
  cases f2 using digit_cases with
  | d0 | d2 | d4 | d6 | d8 | dA | dC | dE => exact reads_takeCompare fun _ _ _ => rfl
  | d1 | d9 => exact reads_takeBlock (fun _ _ => rfl) fun _ _ => rfl
  | d3 | d5 | d7 | dB | dD | dF => exact .reserved

theorem parseBlockWord_reads (f2 : BitVec 4) : Reads (firstOf 2 0x3B f1 f2 :: ws) (parseBlockWord f1 f2 ws) := by
  cases f2 using digit_cases with
  | d0 | d2 | d4 | d6 | d8 | dA | dC | dE => exact reads_takeCompare fun _ _ _ => rfl
  | d1 | d9 => exact reads_takeBlock (fun _ _ => rfl) fun _ _ => rfl
  | d3 | d5 | d7 | dB | dD | dF => exact .reserved

theorem parseExts_reads (f2 : BitVec 4) : Reads (firstOf 2 0x31 f1 f2 :: ws) (parseExts f1 f2 ws) := by
  cases f2 using digit_cases with
  | d0 | d7 | dA => exact reads_one rfl
  | d1 | d2 | d3 | d4 | d5 | d6 | d8 | d9 | dB | dC | dD | dE | dF => exact .reserved

theorem parseBx_reads (d f2 : BitVec 4) : Reads (firstOf 2 (3#2 ++ d) f1 f2 :: ws) (parseBx d.toNat f1 f2 ws) := by
  cases d using digit_cases with
  | d0 => exact reads_zero (w := firstOf 2 0x30 f1) rfl
  | d1 => exact parseExts_reads f2
  | d2 => exact parseShiftByte_reads f2
  | d3 => exact parseShiftWord_reads f2
  | d4 | d5 | d6 | d7 | dC | dD | dE => exact reads_one rfl
  | d8 => exact parseTranslate_reads f2
  | dA => exact parseBlockByte_reads f2
  | dB => exact parseBlockWord_reads f2
  | d9 | dF => exact .reserved

/-- The extended-instruction opcodes: one for each mode (30_encoding.md R131). -/
theorem parseEpu_reads {f2 : BitVec 4} {m0 m1 m2 : Byte → Word → Instr} (hm : m ≠ 3#2)
    (h0 : ∀ lo v, encode (m0 lo v) = [(0#2 ++ op : BitVec (2 + 6)) ++ lo, v])
    (h1 : ∀ lo v, encode (m1 lo v) = [(1#2 ++ op : BitVec (2 + 6)) ++ lo, v])
    (h2 : ∀ lo v, encode (m2 lo v) = [(2#2 ++ op : BitVec (2 + 6)) ++ lo, v]) :
    Reads (firstOf m op f1 f2 :: ws) (parseEpu m.toNat f1 f2 ws m0 m1 m2) := by
  cases m using mode_cases with
  | m0 => exact reads_takeWord fun v => (h0 _ v).trans (by rw [firstOf_bytes])
  | m1 => exact reads_takeWord fun v => (h1 _ v).trans (by rw [firstOf_bytes])
  | m2 => exact reads_takeWord fun v => (h2 _ v).trans (by rw [firstOf_bytes])
  | m3 => exact absurd rfl hm

/- The rows of the opcode map (30_encoding.md R110 to R117). -/

theorem jump_reads (f2 : BitVec 4) : Reads (firstOf m 0x1E f1 f2 :: ws) (parseOp m.toNat 0x1E f1 f2 ws) := by
  have code := CC.bits_ofBits f2
  refine .ite (fun mode => .ite (fun zero => ?_) fun _ => .reserved) fun _ => reads_takeMem fun o => ?_
  · obtain rfl : m = 2#2 := BitVec.eq_of_toNat_eq mode
    subst zero
    exact reads_one (congrArg (fun k => [firstOf 2 0x1E 0 k]) code)
  · exact congrArg (encodeMem 0x1E o) code

theorem call_reads (f2 : BitVec 4) : Reads (firstOf m 0x1F f1 f2 :: ws) (parseOp m.toNat 0x1F f1 f2 ws) := by
  refine .ite (fun zero => ?_) fun _ => .reserved
  subst zero
  exact reads_takeMem fun _ => rfl

theorem parseOp_row0_reads (d f2 : BitVec 4) (hm : m ≠ 3#2) :
    Reads (firstOf m (0#2 ++ d) f1 f2 :: ws) (parseOp m.toNat (0#2 ++ d : BitVec 6).toNat f1 f2 ws) := by
  cases d using digit_cases with
  | d0 | d1 | d2 | d3 | d4 | d5 | d6 | d7 | d8 | d9 | dA | dB => exact reads_takeSrc fun _ => rfl
  | dC => exact parseOneByte_reads f2
  | dD => exact parseOneWord_reads f2
  | dE | dF => exact parseEpu_reads hm (fun _ _ => rfl) (fun _ _ => rfl) fun _ _ => rfl

theorem parseOp_row1_reads (d f2 : BitVec 4) :
    Reads (firstOf m (1#2 ++ d) f1 f2 :: ws) (parseOp m.toNat (1#2 ++ d : BitVec 6).toNat f1 f2 ws) := by
  cases d using digit_cases with
  | d0 | d2 | d4 | d6 | d8 | d9 | dA | dB => exact reads_takeSrc fun _ => rfl
  | d1 | d3 | d5 | d7 => exact reads_takeStack fun _ => rfl
  | dC => exact parseMultiple_reads f2
  | dD => exact reads_takeMem fun _ => rfl
  | dE => exact jump_reads f2
  | dF => exact call_reads f2

theorem parseOp_row2_reads (d f2 : BitVec 4) :
    Reads (firstOf m (2#2 ++ d) f1 f2 :: ws) (parseOp m.toNat (2#2 ++ d : BitVec 6).toNat f1 f2 ws) := by
  cases d using digit_cases with
  | d0 | d1 => exact reads_takeSrc fun _ => rfl
  | d2 | d4 | d6 => exact parseBitByte_reads (fun _ _ => rfl) fun _ _ => rfl
  | d3 | d5 | d7 => exact parseBitWord_reads (fun _ _ => rfl) fun _ _ => rfl
  | d8 | d9 | dA | dB | dC | dD => exact reads_takeOpd fun _ => rfl
  | dE | dF => exact parseStore_reads (fun _ _ => rfl) fun _ _ => rfl

/-- Above 2F the mode chooses among three groups. -/
theorem parseOp_row3 (d f1 f2 : BitVec 4) (ws : List Word) :
    parseOp (0#2).toNat (3#2 ++ d : BitVec 6).toNat f1 f2 ws = parse3x d.toNat f1 f2 ws ∧
      parseOp (1#2).toNat (3#2 ++ d : BitVec 6).toNat f1 f2 ws = parse7x d.toNat f1 f2 ws ∧
      parseOp (2#2).toNat (3#2 ++ d : BitVec 6).toNat f1 f2 ws = parseBx d.toNat f1 f2 ws := by
  cases d using digit_cases <;> exact ⟨rfl, rfl, rfl⟩

theorem parseOp_row3_reads (d f2 : BitVec 4) (hm : m ≠ 3#2) :
    Reads (firstOf m (3#2 ++ d) f1 f2 :: ws) (parseOp m.toNat (3#2 ++ d : BitVec 6).toNat f1 f2 ws) := by
  obtain ⟨mode0, mode1, mode2⟩ := parseOp_row3 d f1 f2 ws
  cases m using mode_cases with
  | m0 => exact mode0 ▸ parse3x_reads d f2
  | m1 => exact mode1 ▸ parse7x_reads d f2
  | m2 => exact mode2 ▸ parseBx_reads d f2
  | m3 => exact absurd rfl hm

theorem parseOp_reads (op : BitVec 6) (f2 : BitVec 4) (hm : m ≠ 3#2) :
    Reads (firstOf m op f1 f2 :: ws) (parseOp m.toNat op.toNat f1 f2 ws) := by
  cases op using operation_cases with
  | r0 d => exact parseOp_row0_reads d f2 hm
  | r1 d => exact parseOp_row1_reads d f2
  | r2 d => exact parseOp_row2_reads d f2
  | r3 d => exact parseOp_row3_reads d f2 hm

end

/- The compact formats of mode 11: the top digit chooses one (30_encoding.md R122). -/

/-- A word is its top digit, the next digit and a byte. -/
theorem word_of_byte (w : Word) : w.extractLsb' 12 4 ++ w.extractLsb' 8 4 ++ w.extractLsb' 0 8 = w := by
  rw [extract_join w 8 4 4, extract_join w 0 8 8]
  exact BitVec.extractLsb'_eq_self

/-- A word is its top digit, the next digit, bit 7 and the bits below. -/
theorem word_of_bit (w : Word) :
    w.extractLsb' 12 4 ++ w.extractLsb' 8 4 ++ BitVec.ofBool (w.getLsbD 7) ++ w.extractLsb' 0 7 = w := by
  rw [ofBool_getLsbD, extract_join w 8 4 4, extract_join w 7 1 8, extract_join w 0 7 9]
  exact BitVec.extractLsb'_eq_self

theorem parseCompact_reads (w : Word) (ws : List Word) (h : w.extractLsb' 14 2 = 3#2) :
    Reads (w :: ws) (parseCompact w ws) := by
  have top : 3#2 ++ w.extractLsb' 12 2 = w.extractLsb' 12 4 := h ▸ extract_join w 12 2 2
  have byte := word_of_byte w
  have bit := word_of_bit w
  unfold parseCompact
  generalize w.extractLsb' 12 2 = format at top ⊢
  rw [← top] at byte bit
  cases format using mode_cases with
  | m0 => exact reads_one (congrArg ([·]) byte)
  | m1 =>
    have disp : w.extractLsb' 12 4 ++ w.extractLsb' 0 12 = w := append_extract (m := 4) (n := 12) w
    rw [← top] at disp
    exact reads_one (congrArg ([·]) disp)
  | m2 =>
    rw [← CC.bits_ofBits (w.extractLsb' 8 4)] at byte
    exact reads_one (congrArg ([·]) byte)
  | m3 =>
    refine reads_one ?_
    split
    · next set => rw [set] at bit; exact congrArg ([·]) bit
    · next clear => rw [(Bool.not_eq_true _).mp clear] at bit; exact congrArg ([·]) bit

theorem parse_reads (ws : List Word) : Reads ws (parse ws) := by
  cases ws with
  | nil => exact .error _
  | cons w ws =>
    by_cases compact : w.extractLsb' 14 2 = 3#2
    · rw [parse, compact]
      exact parseCompact_reads w ws compact
    · rw [← firstOf_extract w, parse_firstOf _ _ _ _ _ compact]
      exact parseOp_reads _ _ compact

/-- Settles O5, row by row of the opcode map: `decodeWords_ok` gives well-formedness, `parse_reads` the words. -/
theorem encodeDecode : Obligations.EncodeDecode := by
  intro ws rest i h
  obtain ⟨parsed, wf⟩ := (decodeWords_ok ws rest i).mp h
  exact ⟨wf, (parse_reads ws i rest parsed).symm⟩

end Sys2Proof
end

section
/-! PROOFS. What the encoder writes is read back (30_encoding.md R92, R93, R133): one lemma for each form of encoding,
then the instructions by their form. -/

namespace Sys2Proof

/-- Decoding the words of `i` with any words after them gives `i` and those words, before the checks on its fields. -/
def ReadBack (i : Instr) : Prop := ∀ ws, parse (encode i ++ ws) = .ok (i, ws)

section
variable {i : Instr} {m : BitVec 2} {op : BitVec 6} {f k : BitVec 4}

theorem readBack_of_parseOp {tail : List Word} (he : encode i = firstOf m op f k :: tail) (hm : m ≠ 3#2)
    (hp : ∀ ws, parseOp m.toNat op.toNat f k (tail ++ ws) = .ok (i, ws)) : ReadBack i := by
  intro ws
  rw [he, List.cons_append, parse_firstOf m op f k _ hm]
  exact hp ws

/- Operands (30_encoding.md R110 to R114). -/

theorem Mem.mode_toNat_ne (o : Mem) : o.mode.toNat ≠ 2 := by cases o <;> simp [Mem.mode]

/-- A well-formed operand is not the mode and field that mark the dynamic form (30_encoding.md R100, R114). -/
theorem Opd.wf_not_dynamic {reg : Reg → Bool} {o : Opd} (h : o.wf reg = true) :
    ¬(o.mode.toNat = 0 ∧ o.field = 0) := by
  rintro ⟨mode, zero⟩
  rcases o with r | p | d
  · cases mode
  · have nonzero : p ≠ 0 := by simpa using Bool.and_elim_right h
    exact nonzero zero
  · cases mode

theorem readBack_src {w : Width} {src : Src w.bits} {mk : Src w.bits → Instr} {reg : Reg → Bool}
    (he : encode i = encodeTwo w op k src)
    (hp : ∀ ws, parseOp src.mode.toNat op.toNat src.field k ws = (takeSrc w src.mode.toNat src.field ws).map mk)
    (hi : mk src = i) (h : src.wf reg = true) : ReadBack i := by
  refine readBack_of_parseOp he src.mode_ne fun ws => ?_
  rw [hp, takeSrc_encode w src ws reg h, ← hi]; rfl

theorem readBack_opd {o : Opd} {mk : Opd → Instr} {reg : Reg → Bool} (he : encode i = encodeOpd op o k)
    (hp : ∀ ws, parseOp o.mode.toNat op.toNat o.field k ws = (takeOpd o.mode.toNat o.field ws).map mk)
    (hi : mk o = i) (h : o.wf reg = true) : ReadBack i := by
  refine readBack_of_parseOp he o.mode_ne fun ws => ?_
  rw [hp, takeOpd_encode o ws reg h, ← hi]; rfl

theorem readBack_stack {o : Opd} {mk : Opd → Instr} {reg : Reg → Bool} (he : encode i = encodeStack op f o)
    (hp : ∀ ws, parseOp o.mode.toNat op.toNat f o.field ws = (takeOpd o.mode.toNat o.field ws).map mk)
    (hi : mk o = i) (h : o.wf reg = true) : ReadBack i := by
  refine readBack_of_parseOp he o.mode_ne fun ws => ?_
  rw [hp, takeOpd_encode o ws reg h, ← hi]; rfl

theorem readBack_mem {o : Mem} {mk : Mem → Instr} (he : encode i = encodeMem op o k)
    (hp : ∀ ws, parseOp o.mode.toNat op.toNat o.field k ws = (takeMem o.mode.toNat o.field ws).map mk)
    (hi : mk o = i) (h : o.wf = true) : ReadBack i := by
  refine readBack_of_parseOp he o.mode_ne fun ws => ?_
  rw [hp, takeMem_encode o ws h, ← hi]; rfl

theorem readBack_memImm {w : Width} {o : Mem} {v : BitVec w.bits} {mk : Mem → BitVec w.bits → Instr}
    (he : encode i = encodeMem op o k ++ immWords w v)
    (hp : ∀ ws, parseOp o.mode.toNat op.toNat o.field k ws =
      Dec.andThen (takeMem o.mode.toNat o.field ws) fun o ws => (takeImm w ws).map fun v => mk o v)
    (hi : mk o v = i) (h : o.wf = true) : ReadBack i := by
  refine readBack_of_parseOp (tail := o.encode ++ immWords w v) he o.mode_ne fun ws => ?_
  rw [hp, List.append_assoc, takeMem_encode o _ h, Dec.andThen, takeImm_encode, ← hi]; rfl

theorem readBack_direct {d : Direct} {mk : Direct → Instr} (he : encode i = firstOf m op d.field k :: d.encode)
    (hm : m ≠ 3#2) (hp : ∀ ws, parseOp m.toNat op.toNat d.field k ws = (takeDirect d.field ws).map mk)
    (hi : mk d = i) (h : d.wf = true) : ReadBack i := by
  refine readBack_of_parseOp he hm fun ws => ?_
  rw [hp, takeDirect_encode d ws h, ← hi]; rfl

theorem readBack_multiple {o : Mem} {r n : BitVec 4} {mk : Mem → Reg → BitVec 4 → Instr}
    (he : encode i = encodeMultiple k o r n)
    (hp : ∀ ws, parseOp o.mode.toNat 0x1C o.field k ws = takeMultiple o.mode.toNat o.field ws mk)
    (hi : mk o r n = i) (h : o.wf = true) : ReadBack i := by
  refine readBack_of_parseOp he o.mode_ne fun ws => (hp _).trans ?_
  obtain ⟨top, hr, mid, hn⟩ := secondOf_fields r 0 n
  simp only [takeMultiple, List.cons_append, takeWord, Dec.andThen, top, hr, mid, hn, takeMem_encode o ws h, Dec.map, hi]
  rfl

/- Second operation words (30_encoding.md R117 to R121). -/

/-- The instruction's group `p` of the opcode map reads its second operation word. -/
theorem readBack_group {a b c : BitVec 4} (p : BitVec 4 → BitVec 4 → List Word → Dec Instr)
    (he : encode i = encodeBlock m op f k a b c) (hm : m ≠ 3#2)
    (hop : ∀ ws, parseOp m.toNat op.toNat f k ws = p f k ws)
    (hp : ∀ ws, p f k (secondOf a b c :: ws) = .ok (i, ws)) : ReadBack i :=
  readBack_of_parseOp he hm fun ws => (hop _).trans (hp ws)

theorem takeOneReg_encode (r : Reg) (ws : List Word) (mk : Reg → Instr) :
    takeOneReg (secondOf r 0 0 :: ws) mk = .ok (mk r, ws) :=
  takeNibbles_encode r 0 0 ws _

theorem readBack_oneReg {r : Reg} {mk : Reg → Instr} (he : encode i = encodeBlock m op f k r 0 0) (hm : m ≠ 3#2)
    (hp : ∀ ws, parseOp m.toNat op.toNat f k ws = takeOneReg ws mk) (hi : mk r = i) : ReadBack i :=
  readBack_of_parseOp he hm fun ws => (hp _).trans (hi ▸ takeOneReg_encode r ws mk)

@[simp] theorem takeBlock_single (r x : BitVec 4) (ws : List Word) (single repeating : Reg → Reg → Instr) :
    takeBlock (secondOf r x 8#4 :: ws) single repeating = .ok (single x r, ws) :=
  takeNibbles_encode r x 8 ws _

@[simp] theorem takeBlock_repeating (r x : BitVec 4) (ws : List Word) (single repeating : Reg → Reg → Instr) :
    takeBlock (secondOf r x 0#4 :: ws) single repeating = .ok (repeating x r, ws) :=
  takeNibbles_encode r x 0 ws _

@[simp] theorem takeCompare_encode (r d : BitVec 4) (cc : CC) (ws : List Word) (mk : Reg → Reg → CC → Instr) :
    takeCompare (secondOf r d cc.bits :: ws) mk = .ok (mk d r cc, ws) := by
  rw [takeCompare, takeNibbles_encode, CC.ofBits_bits]

@[simp] theorem takeTranslate_encode (r s k : BitVec 4) (ws : List Word) (mk : Reg → Reg → Instr) :
    takeTranslate (secondOf r s k :: ws) k mk = .ok (mk s r, ws) := by
  rw [takeTranslate, takeNibbles_encode, if_pos rfl]

/-- A based operand: the base field is not 0 (30_encoding.md R107, R115). -/
theorem readBack_based {disp : Word} {relative based : Word → Instr} (he : encode i = [firstOf 0 op f k, disp])
    (hp : ∀ ws, parseOp 0 op.toNat f k ws = (takeWord ws).map fun v => if f = 0 then relative v else based v)
    (hi : based disp = i) (h : pointerReg f = true) : ReadBack i := by
  refine readBack_of_parseOp he (by decide) fun ws => (hp _).trans ?_
  have nonzero : f ≠ 0 := by simpa using Bool.and_elim_right h
  simp only [List.singleton_append, takeWord, Dec.map, Dec.andThen, if_neg nonzero, hi]

/- Static shifts (30_encoding.md R95, 43_rotate_shift.md R200). -/

theorem leftCount_iff {w n : Nat} : leftCount w n = true ↔ n ≤ w := by simp [leftCount]

theorem rightCount_iff {w n : Nat} : rightCount w n = true ↔ 1 ≤ n ∧ n ≤ w := by simp [rightCount]

theorem takeShift_leftWord {n : Nat} (h : n ≤ 32) (ws : List Word) (left right : Nat → Instr) :
    takeShift (leftWord n :: ws) left right = .ok (left n, ws) := by
  have sign : (leftWord n).getLsbD 15 = false := by interval_cases n <;> rfl
  have count : (leftWord n).toNat = n := by
    rw [leftWord, BitVec.toNat_ofNat]; omega
  simp only [takeShift, takeWord, Dec.map, Dec.andThen, sign, count]
  rfl

theorem takeShift_rightWord {n : Nat} (h1 : 1 ≤ n) (h : n ≤ 32) (ws : List Word) (left right : Nat → Instr) :
    takeShift (rightWord n :: ws) left right = .ok (right n, ws) := by
  have sign : (rightWord n).getLsbD 15 = true := by interval_cases n <;> rfl
  have count : (-rightWord n).toNat = n := by
    rw [rightWord, BitVec.neg_neg, BitVec.toNat_ofNat]; omega
  simp only [takeShift, takeWord, Dec.map, Dec.andThen, sign, count]
  rfl

theorem takeShiftByte_leftWord {n : Nat} (h : n ≤ 8) (ws : List Word) (left right : Nat → Instr) :
    takeShiftByte (leftWord n :: ws) left right = .ok (left n, ws) := by
  have high : (leftWord n).extractLsb' 8 8 = 0#8 := by interval_cases n <;> rfl
  have sign : ((leftWord n).extractLsb' 0 8).getLsbD 7 = false := by interval_cases n <;> rfl
  have count : ((leftWord n).extractLsb' 0 8).toNat = n := by interval_cases n <;> rfl
  simp only [takeShiftByte, takeWord, Dec.andThen, high, sign, count]
  rfl

theorem takeShiftByte_rightWordByte {n : Nat} (h1 : 1 ≤ n) (h : n ≤ 8) (ws : List Word) (left right : Nat → Instr) :
    takeShiftByte (rightWordByte n :: ws) left right = .ok (right n, ws) := by
  have high : (rightWordByte n).extractLsb' 8 8 = 0#8 := byte_hi _ _
  have sign : ((rightWordByte n).extractLsb' 0 8).getLsbD 7 = true := by interval_cases n <;> rfl
  have count : (-(rightWordByte n).extractLsb' 0 8).toNat = n := by interval_cases n <;> rfl
  simp only [takeShiftByte, takeWord, Dec.andThen, high, sign, count]
  rfl

theorem readBack_left {w n : Nat} {left right : Nat → Instr} (he : encode i = [firstOf m op f k, leftWord n])
    (hm : m ≠ 3#2) (hp : ∀ ws, parseOp m.toNat op.toNat f k ws = takeShift ws left right) (hi : left n = i)
    (hw : w ≤ 32) (h : leftCount w n = true) : ReadBack i := by
  have bound := leftCount_iff.mp h
  exact readBack_of_parseOp he hm fun ws => (hp _).trans (hi ▸ takeShift_leftWord (by omega) ws left right)

theorem readBack_right {w n : Nat} {left right : Nat → Instr} (he : encode i = [firstOf m op f k, rightWord n])
    (hm : m ≠ 3#2) (hp : ∀ ws, parseOp m.toNat op.toNat f k ws = takeShift ws left right) (hi : right n = i)
    (hw : w ≤ 32) (h : rightCount w n = true) : ReadBack i := by
  obtain ⟨positive, bound⟩ := rightCount_iff.mp h
  exact readBack_of_parseOp he hm fun ws => (hp _).trans (hi ▸ takeShift_rightWord positive (by omega) ws left right)

theorem readBack_leftByte {n : Nat} {left right : Nat → Instr} (he : encode i = [firstOf m op f k, leftWord n])
    (hm : m ≠ 3#2) (hp : ∀ ws, parseOp m.toNat op.toNat f k ws = takeShiftByte ws left right) (hi : left n = i)
    (h : leftCount 8 n = true) : ReadBack i :=
  readBack_of_parseOp he hm fun ws => (hp _).trans (hi ▸ takeShiftByte_leftWord (leftCount_iff.mp h) ws left right)

theorem readBack_rightByte {n : Nat} {left right : Nat → Instr} (he : encode i = [firstOf m op f k, rightWordByte n])
    (hm : m ≠ 3#2) (hp : ∀ ws, parseOp m.toNat op.toNat f k ws = takeShiftByte ws left right) (hi : right n = i)
    (h : rightCount 8 n = true) : ReadBack i := by
  obtain ⟨positive, bound⟩ := rightCount_iff.mp h
  exact readBack_of_parseOp he hm fun ws => (hp _).trans (hi ▸ takeShiftByte_rightWordByte positive bound ws left right)

/-- The extended-instruction opcodes: the low byte is not interpreted (30_encoding.md R131). -/
theorem readBack_epu {lo : Byte} {v : Word} {mk : Byte → Word → Instr}
    (he : encode i = [(m ++ op : BitVec (2 + 6)) ++ lo, v]) (hm : m ≠ 3#2)
    (hp : ∀ f k ws, parseOp m.toNat op.toNat f k ws = (takeWord ws).map fun v => mk (f ++ k) v) (hi : mk lo v = i) :
    ReadBack i := by
  have split : lo.extractLsb' 4 4 ++ lo.extractLsb' 0 4 = lo := append_extract (m := 4) (n := 4) lo
  rw [← split, firstOf_bytes] at he
  refine readBack_of_parseOp he hm fun ws => (hp _ _ _).trans ?_
  rw [split, ← hi]; rfl

/- The compact formats of mode 11 (30_encoding.md R122). -/

/-- A word of a compact format: its top digit is 11 and the two bits that choose the format. -/
theorem compact_fields {w : Word} {format : BitVec 2} (top : w.extractLsb' 12 4 = (3#2 ++ format : BitVec (2 + 2))) :
    w.extractLsb' 14 2 = 3#2 ∧ w.extractLsb' 12 2 = format := by
  have join : w.extractLsb' 14 2 ++ w.extractLsb' 12 2 = (3#2 ++ format : BitVec (2 + 2)) :=
    (extract_join w 12 2 2).trans top
  constructor
  · rw [← extract_append_hi (w.extractLsb' 14 2) (w.extractLsb' 12 2), join, extract_append_hi]
  · rw [← extract_append_lo (w.extractLsb' 14 2) (w.extractLsb' 12 2), join, extract_append_lo]

theorem byteWord_fields (t d : BitVec 4) (v : Byte) {w : Word} (hw : w = t ++ d ++ v) :
    w.extractLsb' 12 4 = t ∧ w.extractLsb' 8 4 = d ∧ w.extractLsb' 0 8 = v := by
  subst hw
  refine ⟨?_, ?_, ?_⟩ <;>
    · apply BitVec.eq_of_getLsbD_eq
      intro j hj
      simp only [BitVec.getLsbD_extractLsb', BitVec.getLsbD_append]
      interval_cases j <;> rfl

theorem bitWord_fields (t d : BitVec 4) (b : BitVec 1) (v : BitVec 7) {w : Word} (hw : w = t ++ d ++ b ++ v) :
    w.extractLsb' 12 4 = t ∧ w.extractLsb' 8 4 = d ∧ w.getLsbD 7 = b.getLsbD 0 ∧ w.extractLsb' 0 7 = v := by
  subst hw
  refine ⟨?_, ?_, by simp only [BitVec.getLsbD_append]; rfl, ?_⟩ <;>
    · apply BitVec.eq_of_getLsbD_eq
      intro j hj
      simp only [BitVec.getLsbD_extractLsb', BitVec.getLsbD_append]
      interval_cases j <;> rfl

theorem readBack_of_parseCompact {w : Word} {format : BitVec 2} (he : encode i = [w])
    (top : w.extractLsb' 12 4 = (3#2 ++ format : BitVec (2 + 2)))
    (hp : w.extractLsb' 12 2 = format → ∀ ws, parseCompact w ws = .ok (i, ws)) : ReadBack i := by
  obtain ⟨mode, chosen⟩ := compact_fields top
  intro ws
  rw [he, List.singleton_append, parse, mode]
  exact hp chosen ws

theorem readBack_ldbShort (d : Reg) (v : Byte) : ReadBack (.ldbShort d v) := by
  obtain ⟨top, hd, hv⟩ := byteWord_fields 0xC#4 d v rfl
  refine readBack_of_parseCompact (format := 0#2) rfl top fun format ws => ?_
  simp only [parseCompact, format, hd, hv]
  rfl

theorem readBack_calr (p : BitVec 12) : ReadBack (.calr p) := by
  refine readBack_of_parseCompact (format := 1#2) rfl (extract_append_hi 0xD#4 p) fun format ws => ?_
  have hp : (0xD#4 ++ p : BitVec (4 + 12)).extractLsb' 0 12 = p := extract_append_lo 0xD#4 p
  simp only [parseCompact, format, hp]
  rfl

theorem readBack_jr (cc : CC) (p : Byte) : ReadBack (.jr cc p) := by
  obtain ⟨top, hcc, hp⟩ := byteWord_fields 0xE#4 cc.bits p rfl
  refine readBack_of_parseCompact (format := 2#2) rfl top fun format ws => ?_
  simp only [parseCompact, format, hcc, hp, CC.ofBits_bits]
  rfl

theorem readBack_dbjnz (r : Reg) (p : BitVec 7) : ReadBack (.dbjnz r p) := by
  obtain ⟨top, hr, bit, hp⟩ := bitWord_fields 0xF#4 r 0#1 p rfl
  refine readBack_of_parseCompact (format := 3#2) rfl top fun format ws => ?_
  simp only [parseCompact, format, hr, bit, hp]
  rfl

theorem readBack_djnz (r : Reg) (p : BitVec 7) : ReadBack (.djnz r p) := by
  obtain ⟨top, hr, bit, hp⟩ := bitWord_fields 0xF#4 r 1#1 p rfl
  refine readBack_of_parseCompact (format := 3#2) rfl top fun format ws => ?_
  simp only [parseCompact, format, hr, bit, hp]
  rfl

end

/- The bit instructions and the stores, by their form (30_encoding.md R114). -/

section
variable {o : Opd} {m : Mem} {k : BitVec 4} {ws : List Word}

theorem parseBitByte_static {reg : Reg → Bool} {b : BitVec 3} {static : Opd → BitVec 3 → Instr}
    {dynamic : Reg → Reg → Instr} (h : o.wf reg = true) :
    parseBitByte o.mode.toNat o.field (0#1 ++ b) ws static dynamic =
      (takeOpd o.mode.toNat o.field ws).map fun o => static o b := by
  have low : (0#1 ++ b : BitVec (1 + 3)).getLsbD 3 = false := by revert b; decide
  rw [parseBitByte, if_neg (Opd.wf_not_dynamic h), low, extract_append_lo (0#1) b]
  rfl

theorem parseBitWord_static {reg : Reg → Bool} {b : BitVec 4} {static : Opd → BitVec 4 → Instr}
    {dynamic : Reg → Reg → Instr} (h : o.wf reg = true) :
    parseBitWord o.mode.toNat o.field b ws static dynamic =
      (takeOpd o.mode.toNat o.field ws).map fun o => static o b :=
  if_neg (Opd.wf_not_dynamic h)

theorem parseStore_mem {store : Mem → Reg → Instr} {tcc : CC → Reg → Instr} :
    parseStore m.mode.toNat m.field k ws store tcc = (takeMem m.mode.toNat m.field ws).map fun m => store m k :=
  if_neg m.mode_toNat_ne

end

/-- The families of 30_encoding.md R110 to R122 and R131: each well-formed instruction is read back by its form. -/
theorem parse_encode (i : Instr) (h : i.wf = true) : ReadBack i := by
  cases i with
  -- Two operands (R110).
  | addb | add | subb | sub | orb | or | andb | and | xorb | xor | cpb | cp | ldb | ld =>
    exact readBack_src rfl (fun _ => rfl) rfl h
  | addl | subl | cpl | ldl | mult | div | multl | divl => exact readBack_src rfl (fun _ => rfl) rfl (Bool.and_elim_right h)
  -- One operand, or an operand and a digit (R111, R113, R114).
  | exb | ex | comb | com | negb | neg | testb | test | testl | tsetb | tset | clrb | clr | incb | inc | decb | dec =>
    exact readBack_opd rfl (fun _ => rfl) rfl h
  | resb | setb | bitb => exact readBack_opd rfl (fun _ => parseBitByte_static h) rfl h
  | res | set | bit => exact readBack_opd rfl (fun _ => parseBitWord_static h) rfl h
  | push | pushl | pop | popl => exact readBack_stack rfl (fun _ => rfl) rfl (Bool.and_elim_right h)
  -- A memory operand (R111, R113, R114, R116).
  | cpbImm => exact readBack_memImm (w := .byte) rfl (fun _ => if_neg (Mem.mode_toNat_ne _)) rfl h
  | ldbImm => exact readBack_memImm (w := .byte) rfl (fun _ => rfl) rfl h
  | cpImm | ldImm => exact readBack_memImm (w := .word) rfl (fun _ => if_neg (Mem.mode_toNat_ne _)) rfl h
  | ldmLoad | ldmStore => exact readBack_multiple rfl (fun _ => if_neg (Mem.mode_toNat_ne _)) rfl h
  | ldbStore | ldStore => exact readBack_mem rfl (fun _ => parseStore_mem) rfl h
  | ldlStore => exact readBack_mem rfl (fun _ => rfl) rfl (Bool.and_elim_left h)
  | jp cc dst =>
    exact readBack_mem rfl (fun _ => if_neg (Mem.mode_toNat_ne _)) (congrArg (Instr.jp · dst) (CC.ofBits_bits cc)) h
  | call => exact readBack_mem rfl (fun _ => rfl) rfl h
  | lda => exact readBack_direct rfl (by decide) (fun _ => rfl) rfl (Bool.and_elim_right h)
  | ldps src =>
    cases src with
    | ir => exact readBack_of_parseOp (m := 0) rfl (by decide) fun _ => rfl
    | dir => exact readBack_direct (m := 1) rfl (by decide) (fun _ => rfl) rfl h
  -- One word, or a word taken as it is (R111, R115 to R118).
  | ldctlbRead | ldctlbWrite | setflg | resflg | comflg | nop | pushImm | ldrbLoad | ldrbStore | ldrLoad | ldrStore
  | ldrlLoad | ldrlStore | ldar | inbInd | inInd | outbInd | outInd | in_ | inb | sin | sinb | out | outb | sout | soutb
  | halt | iret | mset | mres | mbit | mreq | dab | extsb | exts | extsl | adcb | adc | sbcb | sbc | rldb | rrdb | ldk =>
    exact readBack_of_parseOp rfl (by decide) fun _ => rfl
  | rlb _ two | rl _ two | rrb _ two | rr _ two | rlcb _ two | rlc _ two | rrcb _ two | rrc _ two =>
    cases two <;> exact readBack_of_parseOp rfl (by decide) fun _ => rfl
  | di vi nvi | ei vi nvi => cases vi <;> cases nvi <;> exact readBack_of_parseOp rfl (by decide) fun _ => rfl
  | ldctlRead _ c | ldctlWrite c => cases c <;> exact readBack_of_parseOp rfl (by decide) fun _ => rfl
  | ret cc =>
    refine readBack_of_parseOp rfl (by decide) fun ws => ?_
    exact congrArg (fun cc => Except.ok (Instr.ret cc, ws)) (CC.ofBits_bits cc)
  | tccb cc d =>
    refine readBack_of_parseOp rfl (by decide) fun ws => ?_
    exact congrArg (fun cc => Except.ok (Instr.tccb cc d, ws)) (CC.ofBits_bits cc)
  | tcc cc d =>
    refine readBack_of_parseOp rfl (by decide) fun ws => ?_
    exact congrArg (fun cc => Except.ok (Instr.tcc cc d, ws)) (CC.ofBits_bits cc)
  | sc n =>
    refine readBack_of_parseOp rfl (by decide) fun ws => ?_
    have split : n.extractLsb' 4 4 ++ n.extractLsb' 0 4 = n := append_extract (m := 4) (n := 4) n
    exact congrArg (fun n => Except.ok (Instr.sc n, ws)) split
  -- A displacement and a base register (R115).
  | ldbBA | ldBA | ldbStoreBA | ldStoreBA => exact readBack_based rfl (fun _ => rfl) rfl h
  | ldlBA | ldaBA => exact readBack_based rfl (fun _ => rfl) rfl (Bool.and_elim_right h)
  | ldlStoreBA => exact readBack_based rfl (fun _ => rfl) rfl (Bool.and_elim_left h)
  -- A second operation word (R114, R116 to R121).
  | resbDyn | resDyn | setbDyn | setDyn | bitbDyn | bitDyn
  | ldbBX | ldbStoreBX | ldBX | ldStoreBX | ldlBX | ldlStoreBX | ldaBX | sdlb | sdl | sdll | sdab | sda | sdal =>
    exact readBack_oneReg rfl (by decide) (fun _ => rfl) (by rfl)
  | trib | trirb | trdb | trdrb | trtib | trtirb | trtdb | trtdrb =>
    exact readBack_group parseTranslate rfl (by decide) (fun _ => rfl) fun _ => by simp [parseTranslate]
  | inib | sinib | inirb | sinirb | indb | sindb | indrb | sindrb
  | outib | soutib | otirb | sotirb | outdb | soutdb | otdrb | sotdrb =>
    exact readBack_group parseIoByte rfl (by decide) (fun _ => rfl) fun _ => by simp [parseIoByte]
  | ini | sini | inir | sinir | ind | sind | indr | sindr | outi | souti | otir | sotir | outd | soutd | otdr | sotdr =>
    exact readBack_group parseIoWord rfl (by decide) (fun _ => rfl) fun _ => by simp [parseIoWord]
  | ldib | ldirb | lddb | lddrb | cpib | cpirb | cpdb | cpdrb | cpsib | cpsirb | cpsdb | cpsdrb =>
    exact readBack_group parseBlockByte rfl (by decide) (fun _ => rfl) fun _ => by simp [parseBlockByte]
  | ldi | ldir | ldd | lddr | cpi | cpir | cpd | cpdr | cpsi | cpsir | cpsd | cpsdr =>
    exact readBack_group parseBlockWord rfl (by decide) (fun _ => rfl) fun _ => by simp [parseBlockWord]
  -- Static shifts (R119).
  | sllb | slab => exact readBack_leftByte rfl (by decide) (fun _ => rfl) rfl h
  | srlb | srab => exact readBack_rightByte rfl (by decide) (fun _ => rfl) rfl h
  | sll | sla => exact readBack_left rfl (by decide) (fun _ => rfl) rfl (by decide) h
  | srl | sra => exact readBack_right rfl (by decide) (fun _ => rfl) rfl (by decide) h
  | slll | slal => exact readBack_left rfl (by decide) (fun _ => rfl) rfl (by decide) (Bool.and_elim_right h)
  | srll | sral => exact readBack_right rfl (by decide) (fun _ => rfl) rfl (by decide) (Bool.and_elim_right h)
  -- Compact formats (R122) and extended-instruction opcodes (R131).
  | ldbShort d v => exact readBack_ldbShort d v
  | calr p => exact readBack_calr p
  | jr cc p => exact readBack_jr cc p
  | dbjnz r p => exact readBack_dbjnz r p
  | djnz r p => exact readBack_djnz r p
  | epu0E => exact readBack_epu (m := 0) (op := 0x0E) rfl (by decide) (fun _ _ _ => rfl) rfl
  | epu0F => exact readBack_epu (m := 0) (op := 0x0F) rfl (by decide) (fun _ _ _ => rfl) rfl
  | epu4E => exact readBack_epu (m := 1) (op := 0x0E) rfl (by decide) (fun _ _ _ => rfl) rfl
  | epu4F => exact readBack_epu (m := 1) (op := 0x0F) rfl (by decide) (fun _ _ _ => rfl) rfl
  | epu8E => exact readBack_epu (m := 2) (op := 0x0E) rfl (by decide) (fun _ _ _ => rfl) rfl
  | epu8F => exact readBack_epu (m := 2) (op := 0x0F) rfl (by decide) (fun _ _ _ => rfl) rfl

/-- Settles O4: `parse_encode` reads the words back, and the fields are within range because `i` is well formed. -/
theorem decodeEncode : Obligations.DecodeEncode :=
  fun i rest wf => (decodeWords_ok _ _ _).mpr ⟨parse_encode i wf rest, wf⟩

end Sys2Proof
end

section
/-! PROOFS. Loads, stores, exchanges, the stack and the multiple loads: what they write, and what else stays the same
(40_load_exchange.md R141 to R150). -/

namespace Sys2Proof

open Machine

/- What an instruction leaves when it goes on to `next_pc` (10_state.md R27). -/

section
variable {g : Guard} {rs : List Reg} {bs : List Addr} {es : List IoEvent} {s t : State}

theorem OnlyChanges.advanced (h : OnlyChanges g rs bs es s t) (n : Nat) : OnlyChanges g rs bs es s (advance n t) :=
  ⟨h.words, h.normalBank, h.systemBank, h.memory, h.look, h.trace, h.psap, h.refresh, h.halted, h.mo, h.nmiPending,
    h.requests, h.environment⟩

theorem OnlyChanges.spent (h : OnlyChanges g rs bs es s t) (n : Nat) : OnlyChanges g rs bs es s (spend n t) :=
  ⟨h.words, h.normalBank, h.systemBank, h.memory, h.look, h.trace, h.psap, h.refresh, h.halted, h.mo, h.nmiPending,
    h.requests, h.environment⟩

/-- An instruction of `n` words that reaches `t` and then goes on to `next_pc` has the effect that `t` shows. -/
theorem effect_of_advance {i : Instr} {n : Nat} {flags : Fcw → Fcw} {holds : State → Prop}
    (len : (encode i).length = n) (run : exec i s = .next (advance n t)) (pc : t.pc = s.pc)
    (fcw : t.fcw = flags t.fcw) (frame : OnlyChanges (Guard.after n s) rs bs es s t) (result : holds (advance n t)) :
    Effect i s (after i s) flags rs bs es holds := by
  refine ⟨advance n t, run, ?_, fcw, result, ?_⟩
  · rw [after_eq len, advance_pc, nextPc, nextPc, pc]
  · rw [guardOf_eq len]
    exact frame.advanced n

end

@[simp] theorem peek_advance (w : Width) (a : Addr) (n : Nat) (s : State) : peek w a (advance n s) = peek w a s :=
  peek_congr w a fun _ _ => rfl

@[simp] theorem peek_writeReg (w v : Width) (a : Addr) (d : Reg) (x : BitVec v.bits) (s : State) :
    peek w a (writeReg v d x s) = peek w a s :=
  peek_congr w a fun _ _ => byteAt_writeReg ..

@[simp] theorem holdsReg_advance {w : Width} {d : Reg} {v : BitVec w.bits} {n : Nat} {s t : State} :
    HoldsReg w d v s (advance n t) ↔ HoldsReg w d v s t := by simp [HoldsReg]

@[simp] theorem holdsOpd_advance {w : Width} {o : Opd} {v : BitVec w.bits} {n : Nat} {s t : State} :
    HoldsOpd w o v s (advance n t) ↔ HoldsOpd w o v s t := by cases o <;> simp [HoldsOpd]

/- The addresses of the statements are those the operand forms compute (30_encoding.md R106 to R108). -/

theorem pointer_eq_addressIn (p : Reg) (s : State) : pointer p s = addressIn p s := pointer_eq p s

theorem basedAddr_eq (p : Reg) (disp : Word) (s : State) : basedAddr p disp s = offsetBy (addressIn p s) disp := by
  rw [basedAddr, pointer_eq_addressIn]

theorem basedIndexedAddr_eq (p x : Reg) (s : State) :
    basedIndexedAddr p x s = offsetBy (addressIn p s) (readWord x s) := by
  rw [basedIndexedAddr, pointer_eq_addressIn]

theorem relativeAddr_eq {i : Instr} (len : (encode i).length = 2) (disp : Word) (s : State) :
    relativeAddr disp s = offsetBy (after i s) disp := by
  rw [relativeAddr, after_eq len]

/- Loads of a register (40_load_exchange.md R143, R146, R148). -/

section
variable {i : Instr} {w : Width} {n : Nat} {s : State}

theorem loadReg_effect {d : Reg} {v : BitVec w.bits} {source : Res (BitVec w.bits)} (len : (encode i).length = n)
    (run : exec i s = loadReg w d n source s) (read : source = .next v) : RegEffect i s w d v fun _ => s.fcw := by
  subst read
  exact effect_of_advance len run (writeReg_pc ..) (writeReg_fcw ..) (frame_writeReg ..)
    (holdsReg_advance.mpr (holdsReg_writeReg w d v s))

theorem load_spec {mk : Reg → Src w.bits → Instr} (len : ∀ d src, (encode (mk d src)).length = 1 + src.words)
    (run : ∀ d src s, exec (mk d src) s = loadReg w d (1 + src.words) (readSrc w src s) s) : LoadSpec w mk :=
  fun s d src ready => loadReg_effect (len d src) (run d src s) (readSrc_ready ready)

/-- A load from the address `b` that the instruction computes, which is `a`. -/
theorem loadFrom_spec {d : Reg} {a b : Addr} (len : (encode i).length = n)
    (run : exec i s = loadReg w d n (load w b s) s) (place : b = a) : LoadFromSpec w i s d a := by
  subst place
  exact fun ready => loadReg_effect len run (load_of_canRead ready)

/- Stores (40_load_exchange.md R143, R148). -/

/-- A store to the address `b` that the instruction computes, which is `a`. -/
theorem storeTo_spec {a b : Addr} {v : BitVec w.bits} (len : (encode i).length = n)
    (run : exec i s = storeAt w n b v s) (place : b = a) : StoreToSpec w i s a v := by
  subst place
  intro ready
  have stored := store_of_canWrite (Guard.after n s) v ready
  refine effect_of_advance len (run.trans ?_) ?_ ?_ (frame_store stored) ?_
  · rw [storeAt, stored, andThen_next]
  · simp
  · simp
  · rw [peek_advance, peek_store_same stored]

/- Effective addresses (40_load_exchange.md R144, R145). -/

/-- The address `b` that the instruction computes, which is `a`, in a long register. -/
theorem loadAddress_spec {d : Reg} {a b : Addr} (len : (encode i).length = n)
    (run : exec i s = loadAddress d n b s) (place : b = a) : LoadAddressSpec i s d a := by
  subst place
  refine effect_of_advance len run ?_ ?_ ((frame_writeLong ..).spent 1) ?_
  · simp
  · simp
  · rw [← pointer_eq_addressIn, pointer, readLong_advance, readLong_spend, readLong_writeLong_same, addrOf_longOf]

end

/- Clearing and exchanging (40_load_exchange.md R141, R142). -/

theorem clear_spec {w : Width} {mk : Opd → Instr} (len : ∀ o, (encode (mk o)).length = 1 + o.words)
    (run : ∀ o s, exec (mk o) s = clearOpd w o s) : ClearSpec w mk := by
  intro s o ready
  obtain ⟨t, written, holds, fcw, pc, _⟩ := writePlace_ready (Guard.after (1 + o.words) s) 0#_ ready rfl fun _ _ => rfl
  refine effect_of_advance (len o) ((run o s).trans ?_) pc fcw (frame_writePlace written)
    (holdsOpd_advance.mpr holds)
  rw [clearOpd, written, andThen_next]

/-- A byte or word register is not part of another one of its width (10_state.md R22). -/
theorem readReg_writeReg_ne {w : Width} (short : w ≠ .long) {r d : Reg} (h : r ≠ d) (v : BitVec w.bits) (s : State) :
    readReg w r (writeReg w d v s) = readReg w r s := by
  cases w with
  | byte => exact readByte_writeReg r d v s h
  | word => exact readWord_writeWord_ne h v s
  | long => exact absurd rfl short

/-- A byte written to an operand leaves every byte register that is not the operand (10_state.md R22). -/
theorem readByte_writePlace {g : Guard} {o : Opd} {v : Byte} {k : Reg} {s u t : State}
    (h : writePlace g .byte (place o u) v s = .next t) (other : o ≠ .reg k) : readByte k t = readByte k s := by
  cases o with
  | reg r =>
    cases h
    exact readByte_writeReg k r v s fun e => other (e ▸ rfl)
  | mem m =>
    obtain ⟨_, _, rfl⟩ := store_next h
    simp

theorem exchange_spec {w : Width} (short : w ≠ .long) {mk : Reg → Opd → Instr}
    (len : ∀ d o, (encode (mk d o)).length = 1 + o.words) (run : ∀ d o s, exec (mk d o) s = exchange w d o s) :
    ExchangeSpec w mk := by
  intro s d o ready
  obtain ⟨u, written, holds, fcw, pc, _⟩ :=
    writePlace_ready (Guard.after (1 + o.words) s) (readReg w d s) ready rfl fun _ _ => rfl
  have frame := (frame_writePlace written).trans (frame_writeReg _ w d (opdValue w o s) u) (by rw [fcw])
  rw [List.append_nil] at frame
  refine effect_of_advance (len d o) ((run d o s).trans ?_) (by simpa using pc) (by simpa using fcw)
    (frame.mono fun r hr => List.mem_append.mpr (List.mem_append.mp hr).symm) ⟨?_, by simp, ?_⟩
  · rw [exchange, readPlace_ready (opdReady_of_opdWritable ready), andThen_next, written, andThen_next]
  · cases o with
    | reg r =>
      intro other
      rw [readReg_advance, readReg_writeReg_ne short other]
      exact holds.1
    | mem m => exact (peek_advance ..).trans ((peek_writeReg ..).trans holds)
  · rintro rfl k hd ho
    rw [readByte_advance, readByte_writeReg k d _ u hd]
    exact readByte_writePlace written ho

/- The stack (40_load_exchange.md R149, R150). -/

theorem disjoint_iff {xs ys : List Reg} : disjoint xs ys = true ↔ ∀ r ∈ xs, r ∉ ys := by simp [disjoint]

theorem disjoint_eq_false_iff {xs ys : List Reg} : disjoint xs ys = false ↔ ∃ r ∈ xs, r ∈ ys := by simp [disjoint]

/-- An operand that uses a register of the pointer is what the check on the stack instructions finds. -/
theorem disjoint_pointer_eq_false_iff {xs : List Reg} {p : Reg} :
    disjoint xs [p, p + 1#4] = false ↔ ∃ r ∈ xs, r = p ∨ r = p + 1#4 := by
  simp [disjoint_eq_false_iff]

theorem disjoint_pointer_iff {xs : List Reg} {p : Reg} :
    disjoint xs [p, p + 1#4] = true ↔ ¬ ∃ r ∈ xs, r = p ∨ r = p + 1#4 := by
  rw [← disjoint_pointer_eq_false_iff, Bool.not_eq_false]

theorem pushValue_effect {i : Instr} {w : Width} {n : Nat} {p : Reg} {regs : List Reg} {v : BitVec w.bits}
    {source : Res (BitVec w.bits)} {s : State} (len : (encode i).length = n)
    (run : exec i s = pushValue w p n regs source s) (apart : disjoint regs [p, p + 1#4] = true)
    (read : source = .next v) : PushEffect w i s p v := by
  intro ready
  have top : pointer p (stepPointer p (-(BitVec.ofNat 16 w.bytes)) s) =
      offsetBy (addressIn p s) (-(BitVec.ofNat 16 w.bytes)) := by
    rw [pointer_stepPointer, pointer_eq_addressIn]
  have stored := store_of_canWrite (s := stepPointer p (-(BitVec.ofNat 16 w.bytes)) s) (Guard.after n s) v
    ((canWrite_congr (stepPointer_map ..)).trans ready)
  refine effect_of_advance len (run.trans ?_) ?_ ?_ ((frame_stepPointer ..).trans (frame_store stored) ?_) ⟨?_, ?_⟩
  · simp [pushValue, apart, read, top, stored]
  · simp
  · simp
  · simp
  · rw [peek_advance, peek_store_same stored]
  · simp [readWord_stepPointer, BitVec.sub_eq_add_neg]

theorem push_spec {w : Width} {mk : Reg → Opd → Instr} (len : ∀ p o, (encode (mk p o)).length = 1 + o.words)
    (run : ∀ p o s, exec (mk p o) s = pushValue w p (1 + o.words) (opdRegs w o) (readOpd w o s) s) :
    PushSpec w mk := by
  intro s p o
  split
  · next overlap =>
    rw [run, pushValue, if_pos (disjoint_pointer_eq_false_iff.mpr overlap)]
  · next apart =>
    exact fun ready => pushValue_effect (len p o) (run p o s) (disjoint_pointer_iff.mpr apart) (readPlace_ready ready)

theorem opdHomes_subset (w : Width) (o : Opd) : opdHomes w o ⊆ opdRegs w o := by
  cases o with
  | reg r => exact List.Subset.refl _
  | mem m => exact List.nil_subset _

theorem pop_spec {w : Width} (wide : w ≠ .byte) {mk : Opd → Reg → Instr}
    (len : ∀ o p, (encode (mk o p)).length = 1 + o.words) (run : ∀ o p s, exec (mk o p) s = popValue w o p s) :
    PopSpec w mk := by
  intro s o p
  split
  · next overlap =>
    rw [run, popValue, if_pos (disjoint_pointer_eq_false_iff.mpr overlap)]
  · next apart =>
    intro readable writable
    have clear := disjoint_pointer_iff.mpr apart
    obtain ⟨t, written, holds, fcw, pc, _⟩ :=
      writePlace_ready (s := stepPointer p (BitVec.ofNat 16 w.bytes) s) (Guard.after (1 + o.words) s)
        (peek w (addressIn p s) s) writable (stepPointer_map ..) fun e => absurd e wide
    have kept : p + 1#4 ∉ opdHomes w o := fun h => disjoint_iff.mp clear _ (opdHomes_subset w o h) (by simp)
    refine effect_of_advance (len o p) ((run o p s).trans ?_) (by simpa using pc) (by simpa using fcw)
      ((frame_stepPointer ..).trans (frame_writePlace written) (by simp)) ⟨holdsOpd_advance.mpr holds, ?_⟩
    · simp [popValue, clear, pointer_eq_addressIn, load_of_canRead readable, written]
    · calc readWord (p + 1#4) t = readWord (p + 1#4) (stepPointer p (BitVec.ofNat 16 w.bytes) s) :=
            (frame_writePlace written).words _ kept
        _ = readWord (p + 1#4) s + BitVec.ofNat 16 w.bytes := by rw [readWord_stepPointer, if_pos rfl]

/- Consecutive registers and consecutive words (40_load_exchange.md R147). -/

@[simp] theorem regAt_zero (d : Reg) : regAt d 0 = d := by simp [regAt]

@[simp] theorem regAt_succ (d : Reg) (k : Nat) : regAt (d + 1#4) k = regAt d (k + 1) := by
  simp only [regAt, BitVec.add_assoc]; congr 1; bv_omega

@[simp] theorem wordAt_zero (a : Addr) : wordAt a 0 = a := offsetBy_zero a

@[simp] theorem wordAt_succ (a : Addr) (k : Nat) : wordAt (offsetBy a 2#16) k = wordAt a (k + 1) := by
  simp only [wordAt, offsetBy_offsetBy]; congr 1; bv_omega

/-- Sixteen consecutive register numbers are all different. -/
theorem regAt_inj {d : Reg} {j k : Nat} (hj : j < 16) (hk : k < 16) (h : regAt d j = regAt d k) : j = k := by
  simp only [regAt] at h; bv_omega

theorem regRange_eq_map (d : Reg) (n : Nat) : regRange d n = (List.range n).map (regAt d) := by
  induction n generalizing d with
  | zero => rfl
  | succ n ih =>
    rw [regRange, ih, List.range_succ_eq_map, List.map_cons, List.map_map, regAt_zero]
    simp [Function.comp_def]

theorem mem_regRange {r d : Reg} {n : Nat} : r ∈ regRange d n ↔ ∃ k < n, r = regAt d k := by
  simp [regRange_eq_map, eq_comm]

/-- Two different words of sixteen consecutive ones share no byte. -/
theorem span_wordAt_apart (a : Addr) {j k : Nat} (hj : j < 16) (hk : k < 16) (h : j ≠ k) :
    ∀ c ∈ span .word (wordAt a j), c ∉ span .word (wordAt a k) :=
  span_word_apart a ⟨by bv_omega, by bv_omega, by bv_omega⟩

/- LDM to registers. -/

section
variable {n : Nat} {d : Reg} {a : Addr} {s t : State}

theorem loadWords_succ_next : loadWords (n + 1) d a s = .next t ↔
    canRead .word a s = true ∧
      loadWords n (d + 1#4) (offsetBy a 2#16) (writeWord d (peek .word a s) s) = .next t := by
  constructor
  · intro h
    obtain ⟨v, hv, h⟩ := andThen_eq_next h
    obtain ⟨lined, answered, rfl⟩ := load_next hv
    exact ⟨by rw [canRead, lined, answered]; rfl, h⟩
  · rintro ⟨ready, h⟩
    rw [loadWords, load_of_canRead ready, andThen_next, h]

theorem loadWords_completes (ready : ∀ k < n, canRead .word (wordAt a k) s = true) :
    ∃ t, loadWords n d a s = .next t := by
  induction n generalizing d a s with
  | zero => exact ⟨s, rfl⟩
  | succ n ih =>
    have first : canRead .word a s = true := by simpa using ready 0 (by omega)
    obtain ⟨t, ht⟩ := ih (d := d + 1#4) (a := offsetBy a 2#16) (s := writeWord d (peek .word a s) s) fun k hk => by
      rw [wordAt_succ, canRead_congr (writeWord_map ..)]
      exact ready (k + 1) (by omega)
    exact ⟨t, loadWords_succ_next.mpr ⟨first, ht⟩⟩

theorem loadWords_keeps (h : loadWords n d a s = .next t) : t.pc = s.pc ∧ t.fcw = s.fcw := by
  induction n generalizing d a s with
  | zero => cases h; exact ⟨rfl, rfl⟩
  | succ n ih =>
    obtain ⟨_, h⟩ := loadWords_succ_next.mp h
    simpa using ih h

theorem frame_loadWords (g : Guard) (h : loadWords n d a s = .next t) : OnlyChanges g (regRange d n) [] [] s t := by
  induction n generalizing d a s with
  | zero => cases h; exact .refl g _
  | succ n ih =>
    obtain ⟨_, h⟩ := loadWords_succ_next.mp h
    exact (frame_writeWord g d _ s).trans (ih h) (by simp)

/-- Up to sixteen registers hold the words in order: no register is loaded twice. -/
theorem loadWords_words (h : loadWords n d a s = .next t) (hn : n ≤ 16) {k : Nat} (hk : k < n) :
    readWord (regAt d k) t = peek .word (wordAt a k) s := by
  induction n generalizing d a s k with
  | zero => omega
  | succ n ih =>
    obtain ⟨_, h⟩ := loadWords_succ_next.mp h
    cases k with
    | zero =>
      have once : d ∉ regRange (d + 1#4) n := by
        rw [mem_regRange]
        rintro ⟨j, hj, e⟩
        rw [regAt_succ] at e
        exact absurd (regAt_inj (j := 0) (by omega) (by omega) ((regAt_zero d).trans e)) (by omega)
      rw [regAt_zero, wordAt_zero, (frame_loadWords Guard.none h).words d once, readWord_writeWord_same]
    | succ k =>
      rw [← regAt_succ, ← wordAt_succ, ih h (by omega) (by omega)]
      exact peek_writeReg .word .word _ d _ s

/- LDM to memory. -/

variable {g : Guard} {r : Reg}

theorem storeWords_succ_next : storeWords g (n + 1) r a s = .next t ↔
    ∃ u, store g .word a (readWord r s) s = .next u ∧ storeWords g n (r + 1#4) (offsetBy a 2#16) u = .next t :=
  andThen_next_iff

theorem storeWords_completes (ready : ∀ k < n, canWrite .word (wordAt a k) s = true) :
    ∃ t, storeWords g n r a s = .next t := by
  induction n generalizing r a s with
  | zero => exact ⟨s, rfl⟩
  | succ n ih =>
    have first : canWrite .word a s = true := by simpa using ready 0 (by omega)
    have stored := store_of_canWrite g (readWord r s) first
    obtain ⟨_, _, map⟩ := (frame_store stored).environment
    obtain ⟨t, ht⟩ := ih (r := r + 1#4) (a := offsetBy a 2#16) fun k hk => by
      rw [wordAt_succ, canWrite_congr map]
      exact ready (k + 1) (by omega)
    exact ⟨t, storeWords_succ_next.mpr ⟨_, stored, ht⟩⟩

theorem store_keeps {w : Width} {v : BitVec w.bits} (h : store g w a v s = .next t) : t.pc = s.pc ∧ t.fcw = s.fcw := by
  obtain ⟨_, _, rfl⟩ := store_next h
  simp

theorem storeWords_keeps (h : storeWords g n r a s = .next t) : t.pc = s.pc ∧ t.fcw = s.fcw := by
  induction n generalizing r a s with
  | zero => cases h; exact ⟨rfl, rfl⟩
  | succ n ih =>
    obtain ⟨u, stored, h⟩ := storeWords_succ_next.mp h
    obtain ⟨pc, fcw⟩ := store_keeps stored
    obtain ⟨pc', fcw'⟩ := ih h
    exact ⟨pc'.trans pc, fcw'.trans fcw⟩

/-- A run of stores changes the bytes of its words only. -/
theorem frame_storeWords (h : storeWords g n r a s = .next t) :
    OnlyChanges g [] ((List.range n).flatMap fun k => span .word (wordAt a k)) [] s t := by
  induction n generalizing r a s with
  | zero => cases h; exact .refl g _
  | succ n ih =>
    obtain ⟨u, stored, h⟩ := storeWords_succ_next.mp h
    have frame := (frame_store stored).trans (ih h) (by rw [(store_keeps stored).2])
    rw [List.range_succ_eq_map, List.flatMap_cons, List.flatMap_map, wordAt_zero]
    simpa only [wordAt_succ, List.append_nil] using frame

/-- Up to sixteen words hold the registers in order: no byte is stored twice. -/
theorem storeWords_words (h : storeWords g n r a s = .next t) (hn : n ≤ 16) {k : Nat} (hk : k < n) :
    peek .word (wordAt a k) t = readWord (regAt r k) s := by
  induction n generalizing r a s k with
  | zero => omega
  | succ n ih =>
    obtain ⟨u, stored, h⟩ := storeWords_succ_next.mp h
    cases k with
    | zero =>
      have once : ∀ c ∈ span .word (wordAt a 0), byteAt t c = byteAt u c := by
        intro c hc
        refine (frame_storeWords h).memory c ?_
        simp only [List.mem_flatMap, List.mem_range, wordAt_succ, not_exists, not_and]
        exact fun j hj => span_wordAt_apart a (by omega) (by omega) (by omega) c hc
      rw [peek_congr _ _ once, wordAt_zero, regAt_zero, peek_store_same stored]
    | succ k =>
      rw [← regAt_succ, ← wordAt_succ, ih h (by omega) (by omega)]
      exact (frame_store stored).words _ List.not_mem_nil

end

/- Lengths of the encodings (30_encoding.md R93). -/

theorem encodeMem_snoc_length (op : BitVec 6) (m : Mem) (k : BitVec 4) (v : Word) :
    (encodeMem op m k ++ [v]).length = 2 + m.words := by
  rw [List.length_append, encodeMem_length, List.length_singleton]; omega

theorem lda_length (d : Reg) (src : Direct) : (encode (.lda d src)).length = 1 + src.words :=
  (congrArg Nat.succ src.encode_length).trans (Nat.add_comm src.words 1)

/-- Settles O28: clearing and exchanging, width by width. -/
theorem clearExchangeResults : Obligations.ClearExchangeResults :=
  ⟨clear_spec (fun o => encodeOpd_length _ o _) fun _ _ => rfl,
    clear_spec (fun o => encodeOpd_length _ o _) fun _ _ => rfl,
    exchange_spec (by decide) (fun d o => encodeOpd_length _ o d) fun _ _ _ => rfl,
    exchange_spec (by decide) (fun d o => encodeOpd_length _ o d) fun _ _ _ => rfl⟩

/-- Settles O29: each form is a load of a register from its operand or from the address it computes. -/
theorem loadResults : Obligations.LoadResults := by
  refine ⟨?_, ?_, ?_, ?_, ?_, ?_, ?_, ?_⟩
  · exact load_spec (encodeTwo_length .byte _) fun _ _ _ => rfl
  · exact load_spec (encodeTwo_length .word _) fun _ _ _ => rfl
  · exact load_spec (encodeTwo_length .long _) fun _ _ _ => rfl
  · exact fun s d v => loadReg_effect rfl rfl rfl
  · exact fun s d n => loadReg_effect rfl rfl rfl
  · intro s d p disp
    have place := basedAddr_eq p disp s
    exact ⟨loadFrom_spec rfl rfl place, loadFrom_spec rfl rfl place, loadFrom_spec rfl rfl place⟩
  · intro s d p x
    have place := basedIndexedAddr_eq p x s
    exact ⟨loadFrom_spec rfl rfl place, loadFrom_spec rfl rfl place, loadFrom_spec rfl rfl place⟩
  · exact fun s d disp => ⟨loadFrom_spec rfl rfl (relativeAddr_eq rfl disp s),
      loadFrom_spec rfl rfl (relativeAddr_eq rfl disp s), loadFrom_spec rfl rfl (relativeAddr_eq rfl disp s)⟩

/-- Settles O30: each form is a store to the address it computes. -/
theorem storeResults : Obligations.StoreResults := by
  refine ⟨?_, ?_, ?_, ?_, ?_, ?_⟩
  · exact fun s m r => ⟨storeTo_spec (encodeMem_length _ m r) rfl rfl, storeTo_spec (encodeMem_length _ m r) rfl rfl,
      storeTo_spec (encodeMem_length _ m r) rfl rfl⟩
  · exact fun s m v => storeTo_spec (encodeMem_snoc_length _ m _ _) rfl rfl
  · exact fun s m v => storeTo_spec (encodeMem_snoc_length _ m _ _) rfl rfl
  · intro s p r disp
    have place := basedAddr_eq p disp s
    exact ⟨storeTo_spec rfl rfl place, storeTo_spec rfl rfl place, storeTo_spec rfl rfl place⟩
  · intro s p x r
    have place := basedIndexedAddr_eq p x s
    exact ⟨storeTo_spec rfl rfl place, storeTo_spec rfl rfl place, storeTo_spec rfl rfl place⟩
  · exact fun s r disp => ⟨storeTo_spec rfl rfl (relativeAddr_eq rfl disp s),
      storeTo_spec rfl rfl (relativeAddr_eq rfl disp s), storeTo_spec rfl rfl (relativeAddr_eq rfl disp s)⟩

/-- Settles O31: each form writes the address it computes, and accesses no memory. -/
theorem loadAddressResults : Obligations.LoadAddressResults :=
  fun s d => ⟨fun _ => loadAddress_spec (lda_length d _) rfl rfl, fun _ _ => loadAddress_spec (lda_length d _) rfl rfl,
    fun p disp => loadAddress_spec rfl rfl (basedAddr_eq p disp s),
    fun p x => loadAddress_spec rfl rfl (basedIndexedAddr_eq p x s),
    fun disp => loadAddress_spec rfl rfl (relativeAddr_eq rfl disp s)⟩

/-- Settles O32: an immediate uses no register; an operand that uses the pointer is the refused case. -/
theorem pushResults : Obligations.PushResults :=
  ⟨fun _ _ _ => pushValue_effect (regs := []) rfl rfl rfl rfl,
    push_spec (fun p o => encodeStack_length _ p o) fun _ _ _ => rfl,
    push_spec (fun p o => encodeStack_length _ p o) fun _ _ _ => rfl⟩

/-- Settles O33: a destination that uses the pointer is the refused case. -/
theorem popResults : Obligations.PopResults :=
  ⟨pop_spec (by decide) (fun o p => encodeStack_length _ p o) fun _ _ _ => rfl,
    pop_spec (by decide) (fun o p => encodeStack_length _ p o) fun _ _ _ => rfl⟩

/-- Settles O34: the run of word loads, after the check on the operand's address registers. -/
theorem loadMultipleResult : Obligations.LoadMultipleResult := by
  intro s d m n1
  have bound : n1.toNat + 1 ≤ 16 := n1.isLt
  refine ⟨?_, fun apart ready => ?_⟩
  · rintro ⟨r, hr, k, hk, e⟩
    exact if_pos (disjoint_eq_false_iff.mpr ⟨r, hr, mem_regRange.mpr ⟨k, Nat.lt_succ_of_le hk, e⟩⟩)
  · have clear : disjoint (memRegs m) (regRange d (n1.toNat + 1)) = true := disjoint_iff.mpr fun r hr h => by
      obtain ⟨k, hk, e⟩ := mem_regRange.mp h
      exact apart r hr k (Nat.le_of_lt_succ hk) e
    obtain ⟨t, loaded⟩ := loadWords_completes (d := d) fun k hk => ready k (Nat.le_of_lt_succ hk)
    obtain ⟨pc, fcw⟩ := loadWords_keeps loaded
    have frame := frame_loadWords (Guard.after (2 + m.words) s) loaded
    rw [regRange_eq_map] at frame
    refine effect_of_advance (encodeMultiple_length _ m d n1) ?_ pc fcw frame fun k hk =>
      loadWords_words loaded bound (Nat.lt_succ_of_le hk)
    show loadMultiple d m n1 s = _
    simp [loadMultiple, clear, loaded]

/-- Settles O35: the run of word stores. -/
theorem storeMultipleResult : Obligations.StoreMultipleResult := by
  intro s m r n1 ready
  have bound : n1.toNat + 1 ≤ 16 := n1.isLt
  obtain ⟨t, stored⟩ := storeWords_completes (g := Guard.after (2 + m.words) s) (r := r) fun k hk =>
    ready k (Nat.le_of_lt_succ hk)
  obtain ⟨pc, fcw⟩ := storeWords_keeps stored
  refine effect_of_advance (encodeMultiple_length _ m r n1) ?_ pc fcw (frame_storeWords stored) fun k hk =>
    storeWords_words stored bound (Nat.lt_succ_of_le hk)
  show storeMultiple m r n1 s = _
  rw [storeMultiple, stored, andThen_next]

end Sys2Proof
end

section
/-! PROOFS. Arithmetic: results, flags and frames (41_arithmetic.md R161 to R172), and the complement
(42_logical_bit.md R182). The flag functions of the model are first said in the exact arithmetic of the statements. -/

namespace Sys2Proof

open Machine

/- Flags in exact arithmetic (10_state.md R32). -/

theorem Width.bits_pos (w : Width) : 0 < w.bits := by cases w <;> decide

/-- The flags of an addition (R32). -/
theorem setArith_addW (w : Width) (a b : BitVec w.bits) (cin : Bool) (f : Fcw) :
    f.setArith w false (addW a b cin) = addFlags w a b cin f := by
  have c : (addW a b cin).c = decide (2 ^ w.bits ≤ a.toNat + b.toNat + cin.toNat) := rfl
  have z : (addW a b cin).z = decide ((addW a b cin).r = 0) := rfl
  have s : (addW a b cin).s = (addW a b cin).r.msb := rfl
  rw [Fcw.setArith, c, z, s, addW_v w.bits_pos, addW_h, addW_r, addFlags, decide_toInt_neg]
  cases w <;> rfl

/-- C, Z, S and P/V of a subtraction (R32). -/
theorem setCZSV_subW (w : Width) (a b : BitVec w.bits) (bin : Bool) (f : Fcw) :
    f.setCZSV (subW a b bin).c (subW a b bin).z (subW a b bin).s (subW a b bin).v = cpFlags w a b bin f := by
  have z : (subW a b bin).z = decide ((subW a b bin).r = 0) := rfl
  have s : (subW a b bin).s = (subW a b bin).r.msb := rfl
  rw [z, s, subW_c, subW_v w.bits_pos, subW_r, cpFlags, decide_toInt_neg]
  rfl

/-- The flags of a subtraction (R32). -/
theorem setArith_subW (w : Width) (a b : BitVec w.bits) (bin : Bool) (f : Fcw) :
    f.setArith w true (subW a b bin) = subFlags w a b bin f := by
  rw [Fcw.setArith, setCZSV_subW, subW_h, subFlags]
  cases w <;> rfl

theorem onesBelow_eq_countP {n : Nat} (r : BitVec n) (k : Nat) :
    onesBelow r k = (List.range k).countP fun i => r.getLsbD i := by
  induction k with
  | zero => rfl
  | succ k ih =>
    rw [onesBelow, ih, List.range_succ, List.countP_append, List.countP_singleton]
    cases r.getLsbD k <;> rfl

theorem evenParity_eq_evenOnes {n : Nat} (r : BitVec n) : evenParity r = evenOnes r := by
  rw [evenParity, evenOnes, onesBelow_eq_countP]

/-- The flags of a logical operation (42_logical_bit.md R180). -/
theorem setLogic_eq_logicFlags (w : Width) (r : BitVec w.bits) (f : Fcw) : f.setLogic w r = logicFlags w r f := by
  rw [logicFlags, decide_toInt_neg, ← evenParity_eq_evenOnes]
  cases w <;> rfl

/- What an instruction leaves that writes FCW last. -/

section
variable {g : Guard} {rs : List Reg} {bs : List Addr} {es : List IoEvent} {s t : State} {f : Fcw}

theorem OnlyChanges.flagsSet (h : OnlyChanges g rs bs es s t) (mode : f.sn = t.fcw.sn) :
    OnlyChanges g rs bs es s (setFcw f t) :=
  ⟨fun r hr => (readWord_setFcw r f t mode).trans (h.words r hr), h.normalBank, h.systemBank, h.memory, h.look, h.trace,
    h.psap, h.refresh, h.halted, h.mo, h.nmiPending, h.requests, h.environment⟩

theorem holdsReg_setFcw {w : Width} {d : Reg} {v : BitVec w.bits} (mode : f.sn = t.fcw.sn) :
    HoldsReg w d v s (setFcw f t) ↔ HoldsReg w d v s t := by
  simp [HoldsReg, readReg_setFcw _ _ f t mode, readByte_setFcw _ f t mode]

theorem holdsOpd_setFcw {w : Width} {o : Opd} {v : BitVec w.bits} (mode : f.sn = t.fcw.sn) :
    HoldsOpd w o v s (setFcw f t) ↔ HoldsOpd w o v s t := by
  cases o with
  | reg r => exact holdsReg_setFcw mode
  | mem m => exact Eq.congr_left (peek_congr w (memAddr m s) fun _ _ => rfl)

end

section
variable {i : Instr} {w : Width} {n : Nat} {s : State} {flags : Fcw → Fcw}

/-- A register write and a flag update, with `k` free values used. -/
theorem regEffect_of_spent_flags {k : Nat} {d : Reg} {v : BitVec w.bits} {f : Fcw} (len : (encode i).length = n)
    (run : exec i s = .next (advance n (spend k (setFcw f (writeReg w d v s))))) (mode : f.sn = s.fcw.sn)
    (fcw : f = flags f) : RegEffect i s w d v flags := by
  have mode' : f.sn = (writeReg w d v s).fcw.sn := by rw [writeReg_fcw, mode]
  refine effect_of_advance len run (writeReg_pc ..) fcw (((frame_writeReg ..).flagsSet mode').spent k) ?_
  exact holdsReg_advance.mpr ((holdsReg_setFcw mode').mpr (holdsReg_writeReg w d v s))

/-- A register write and a flag update. -/
theorem regEffect_of_flags {d : Reg} {v : BitVec w.bits} {f : Fcw} (len : (encode i).length = n)
    (run : exec i s = .next (advance n (setFcw f (writeReg w d v s)))) (mode : f.sn = s.fcw.sn) (fcw : f = flags f) :
    RegEffect i s w d v flags :=
  regEffect_of_spent_flags (k := 0) (f := f) len run mode fcw

/-- A flag update. -/
theorem flagEffect_of_flags {f : Fcw} (len : (encode i).length = n) (run : exec i s = .next (advance n (setFcw f s)))
    (mode : f.sn = s.fcw.sn) (fcw : f = flags f) : FlagEffect i s flags :=
  effect_of_advance len run rfl fcw ((OnlyChanges.refl _ s).flagsSet mode) trivial

/-- A write to an operand followed by the flag update `f`. -/
theorem opdEffect_of_flags {o : Opd} {v : BitVec w.bits} {f : Fcw → Fcw} (len : (encode i).length = 1 + o.words)
    (ready : opdWritable w o s = true)
    (run : exec i s = (writePlace (Guard.after (1 + o.words) s) w (place o s) v s).andThen fun t =>
      .next (advance (1 + o.words) (setFcw (f t.fcw) t)))
    (mode : (f s.fcw).sn = s.fcw.sn) (fcw : f s.fcw = flags (f s.fcw)) : OpdEffect i s w o v flags := by
  obtain ⟨t, written, holds, same, pc, _⟩ := writePlace_ready (Guard.after (1 + o.words) s) v ready rfl fun _ _ => rfl
  rw [written, andThen_next, same] at run
  have mode' : (f s.fcw).sn = t.fcw.sn := by rw [mode, same]
  refine effect_of_advance len run pc fcw ((frame_writePlace written).flagsSet mode') ?_
  rw [holdsOpd_advance, holdsOpd_setFcw mode']
  exact holds

/- ADD, ADC, SUB, SBC (41_arithmetic.md R161, R162, R171, R172). -/

theorem addSub_effect {op : BitVec w.bits → BitVec w.bits → Bool → Sum w.bits} {cin dflag : Bool} {d : Reg}
    {b : BitVec w.bits} {source : Res (BitVec w.bits)} (len : (encode i).length = n)
    (run : exec i s = addSub w op cin dflag d n source s) (read : source = .next b) :
    RegEffect i s w d (op (readReg w d s) b cin).r fun _ => s.fcw.setArith w dflag (op (readReg w d s) b cin) := by
  subst read
  exact regEffect_of_flags len run (setArith_sn ..) rfl

theorem add_effect {cin : Bool} {d : Reg} {b : BitVec w.bits} {source : Res (BitVec w.bits)}
    (len : (encode i).length = n) (run : exec i s = addSub w addW cin false d n source s) (read : source = .next b) :
    RegEffect i s w d (readReg w d s + b + BitVec.ofNat w.bits cin.toNat)
      fun _ => addFlags w (readReg w d s) b cin s.fcw := by
  rw [← addW_r, ← setArith_addW]
  exact addSub_effect len run read

theorem sub_effect {bin : Bool} {d : Reg} {b : BitVec w.bits} {source : Res (BitVec w.bits)}
    (len : (encode i).length = n) (run : exec i s = addSub w subW bin true d n source s) (read : source = .next b) :
    RegEffect i s w d (readReg w d s - b - BitVec.ofNat w.bits bin.toNat)
      fun _ => subFlags w (readReg w d s) b bin s.fcw := by
  rw [← subW_r, ← setArith_subW]
  exact addSub_effect len run read

end

theorem add_spec {w : Width} {mk : Reg → Src w.bits → Instr}
    (len : ∀ d src, (encode (mk d src)).length = 1 + src.words)
    (run : ∀ d src s, exec (mk d src) s = addSub w addW false false d (1 + src.words) (readSrc w src s) s) :
    AddSpec w mk := fun s d src ready => by
  simpa using add_effect (len d src) (run d src s) (readSrc_ready ready)

theorem sub_spec {w : Width} {mk : Reg → Src w.bits → Instr}
    (len : ∀ d src, (encode (mk d src)).length = 1 + src.words)
    (run : ∀ d src s, exec (mk d src) s = addSub w subW false true d (1 + src.words) (readSrc w src s) s) :
    SubSpec w mk := fun s d src ready => by
  simpa using sub_effect (len d src) (run d src s) (readSrc_ready ready)

/-- Settles O15: the sum of the register, the source and the carry in, at each width. -/
theorem additionResults : Obligations.AdditionResults :=
  ⟨add_spec (encodeTwo_length .byte _) fun _ _ _ => rfl, add_spec (encodeTwo_length .word _) fun _ _ _ => rfl,
    add_spec (encodeTwo_length .long _) fun _ _ _ => rfl, fun _ _ _ => add_effect rfl rfl rfl,
    fun _ _ _ => add_effect rfl rfl rfl⟩

/-- Settles O16: the difference of the register, the source and the borrow in, at each width. -/
theorem subtractionResults : Obligations.SubtractionResults :=
  ⟨sub_spec (encodeTwo_length .byte _) fun _ _ _ => rfl, sub_spec (encodeTwo_length .word _) fun _ _ _ => rfl,
    sub_spec (encodeTwo_length .long _) fun _ _ _ => rfl, fun _ _ _ => sub_effect rfl rfl rfl,
    fun _ _ _ => sub_effect rfl rfl rfl⟩

/- CP (41_arithmetic.md R163). -/

theorem compare_effect {i : Instr} {w : Width} {n : Nat} {s : State} {a b : BitVec w.bits}
    {left right : Res (BitVec w.bits)} (len : (encode i).length = n) (run : exec i s = compare w n left right s)
    (readLeft : left = .next a) (readRight : right = .next b) : FlagEffect i s fun _ => cpFlags w a b false s.fcw := by
  subst readLeft readRight
  rw [← setCZSV_subW]
  exact flagEffect_of_flags len run (setCZSV_sn ..) rfl

theorem compare_spec {w : Width} {mk : Reg → Src w.bits → Instr}
    (len : ∀ d src, (encode (mk d src)).length = 1 + src.words)
    (run : ∀ d src s, exec (mk d src) s = compare w (1 + src.words) (.next (readReg w d s)) (readSrc w src s) s) :
    CompareSpec w mk :=
  fun s d src ready => compare_effect (len d src) (run d src s) rfl (readSrc_ready ready)

theorem compareImm_spec {w : Width} {mk : Mem → BitVec w.bits → Instr}
    (len : ∀ m v, (encode (mk m v)).length = 2 + m.words)
    (run : ∀ m v s, exec (mk m v) s = compare w (2 + m.words) (load w (memAddr m s) s) (.next v) s) :
    CompareImmSpec w mk :=
  fun s m v ready => compare_effect (len m v) (run m v s) (load_of_canRead ready) rfl

/-- Settles O17: a compare is the flags of a subtraction. -/
theorem compareResults : Obligations.CompareResults :=
  ⟨compare_spec (encodeTwo_length .byte _) fun _ _ _ => rfl, compare_spec (encodeTwo_length .word _) fun _ _ _ => rfl,
    compare_spec (encodeTwo_length .long _) fun _ _ _ => rfl,
    compareImm_spec (fun m _ => encodeMem_snoc_length _ m _ _) fun _ _ _ => rfl,
    compareImm_spec (fun m _ => encodeMem_snoc_length _ m _ _) fun _ _ _ => rfl⟩

/- INC, DEC (41_arithmetic.md R165, R168). -/

/-- The numbers 1 to 16 are positive at every width. -/
theorem toInt_count (w : Width) (n1 : BitVec 4) : (BitVec.ofNat w.bits (n1.toNat + 1)).toInt = n1.toNat + 1 := by
  revert n1; cases w <;> decide

/-- INC and DEC by an operation whose flags Z and S are those of its result. -/
theorem countOpd_effect {i : Instr} {w : Width} {s : State} {op : BitVec w.bits → BitVec w.bits → Bool → Sum w.bits}
    {o : Opd} {n1 : BitVec 4} {x : Sum w.bits} (len : (encode i).length = 1 + o.words)
    (run : exec i s = countOpd w op o n1 s) (ready : opdWritable w o s = true)
    (sum : op (opdValue w o s) (BitVec.ofNat w.bits (n1.toNat + 1)) false = x) (zero : x.z = decide (x.r = 0))
    (sign : x.s = x.r.msb) :
    OpdEffect i s w o x.r fun _ =>
      { s.fcw with z := decide (x.r = 0), s := decide (x.r.toInt < 0), pv := x.v } := by
  rw [decide_toInt_neg, ← zero, ← sign]
  refine opdEffect_of_flags (f := fun f => f.setCZSV f.c x.z x.s x.v) len ready ?_ rfl rfl
  rw [run, countOpd, readPlace_ready (opdReady_of_opdWritable ready), andThen_next, sum]

theorem inc_spec {w : Width} {mk : Opd → BitVec 4 → Instr} (len : ∀ o n1, (encode (mk o n1)).length = 1 + o.words)
    (run : ∀ o n1 s, exec (mk o n1) s = countOpd w addW o n1 s) : IncSpec w mk := by
  intro s o n1 ready a r
  have sum : (addW a (BitVec.ofNat w.bits (n1.toNat + 1)) false).r = r := by simp [addW_r, r]
  have effect := countOpd_effect (len o n1) (run o n1 s) ready rfl rfl rfl
  rw [addW_v w.bits_pos, toInt_count, sum] at effect
  simpa using effect

theorem dec_spec {w : Width} {mk : Opd → BitVec 4 → Instr} (len : ∀ o n1, (encode (mk o n1)).length = 1 + o.words)
    (run : ∀ o n1 s, exec (mk o n1) s = countOpd w subW o n1 s) : DecSpec w mk := by
  intro s o n1 ready a r
  have difference : (subW a (BitVec.ofNat w.bits (n1.toNat + 1)) false).r = r := by simp [subW_r, r]
  have effect := countOpd_effect (len o n1) (run o n1 s) ready rfl rfl rfl
  rw [subW_v w.bits_pos, toInt_count, difference] at effect
  simpa using effect

/-- Settles O18: a sum or difference with a number from 1 to 16, whose carry is not written. -/
theorem incrementDecrementResults : Obligations.IncrementDecrementResults :=
  ⟨inc_spec (fun o _ => encodeOpd_length _ o _) fun _ _ _ => rfl,
    inc_spec (fun o _ => encodeOpd_length _ o _) fun _ _ _ => rfl,
    dec_spec (fun o _ => encodeOpd_length _ o _) fun _ _ _ => rfl,
    dec_spec (fun o _ => encodeOpd_length _ o _) fun _ _ _ => rfl⟩

/- NEG, COM (41_arithmetic.md R170, 42_logical_bit.md R182). -/

/-- Only the most negative value has a negative that does not fit (R170). -/
theorem toInt_neg_ne_iff {n : Nat} (hn : 0 < n) (a : BitVec n) :
    (-a).toInt ≠ -a.toInt ↔ a = BitVec.intMin n := by
  refine ⟨fun h => by_contra fun other => h (BitVec.toInt_neg_of_ne_intMin other), ?_⟩
  rintro rfl
  have half : 2 ^ (n - 1) < 2 ^ n := Nat.pow_lt_pow_right (by decide) (by omega)
  have positive : 0 < 2 ^ (n - 1) := Nat.two_pow_pos _
  rw [BitVec.neg_intMin, BitVec.toInt_intMin, Nat.mod_eq_of_lt half]
  omega

/-- The flags of `0 - a` (R170). -/
theorem cpFlags_zero (w : Width) (a : BitVec w.bits) (f : Fcw) :
    cpFlags w 0 a false f =
      { f with
        c := decide (a ≠ 0)
        z := decide (a = 0)
        s := decide ((-a).toInt < 0)
        pv := decide (a = BitVec.intMin w.bits) } := by
  have carry : 0 < a.toNat ↔ a ≠ 0 := by rw [Nat.pos_iff_ne_zero, Ne, Ne, BitVec.toNat_eq]; rfl
  simp [cpFlags, ← toInt_neg_ne_iff w.bits_pos, carry]

theorem neg_spec {w : Width} {mk : Opd → Instr} (len : ∀ o, (encode (mk o)).length = 1 + o.words)
    (run : ∀ o s, exec (mk o) s = negate w o s) : NegSpec w mk := by
  intro s o ready a
  have difference : (subW 0#_ (opdValue w o s) false).r = -a := by simp [subW_r, a]
  rw [← cpFlags_zero]
  refine opdEffect_of_flags (f := fun f => cpFlags w 0 a false f) (len o) ready ?_ rfl rfl
  rw [run, negate, readPlace_ready (opdReady_of_opdWritable ready), andThen_next]
  simp only [difference, setCZSV_subW, a, BitVec.ofNat_eq_ofNat]

theorem com_spec {w : Width} {mk : Opd → Instr} (len : ∀ o, (encode (mk o)).length = 1 + o.words)
    (run : ∀ o s, exec (mk o) s = complement w o s) : ComSpec w mk := by
  intro s o ready r
  rw [← setLogic_eq_logicFlags]
  refine opdEffect_of_flags (f := fun f => f.setLogic w r) (len o) ready ?_ (setLogic_sn ..) rfl
  rw [run, complement, readPlace_ready (opdReady_of_opdWritable ready), andThen_next]

/-- Settles O19: NEG is a subtraction from 0, COM a logical operation. -/
theorem negateComplementResults : Obligations.NegateComplementResults :=
  ⟨neg_spec (fun o => encodeOpd_length _ o _) fun _ _ => rfl, neg_spec (fun o => encodeOpd_length _ o _) fun _ _ => rfl,
    com_spec (fun o => encodeOpd_length _ o _) fun _ _ => rfl, com_spec (fun o => encodeOpd_length _ o _) fun _ _ => rfl⟩

end Sys2Proof
end

section
/-! PROOFS. Multiplication, division and sign extension (41_arithmetic.md R166, R167, R169): the registers hold the
exact integers of the statements. -/

namespace Sys2Proof

open Machine

/- Exact integers that fit their registers. -/

/-- A value that fits in `h` bits is read back from them. -/
theorem toInt_ofInt_of_fitsSigned {h : Nat} (hh : 0 < h) {q : Int} (fits : fitsSigned h q) :
    (BitVec.ofInt h q).toInt = q :=
  BitVec.toInt_ofInt_eq_self hh fits.1 (Int.lt_of_le_sub_one fits.2)

/-- A signed product fits in twice the width (41_arithmetic.md R169). -/
theorem toInt_ofInt_mul {h : Nat} (hh : 0 < h) (a b : BitVec h) :
    (BitVec.ofInt (2 * h) (a.toInt * b.toInt)).toInt = a.toInt * b.toInt := by
  have low : -2 ^ (h * 2 - 2) ≤ a.toInt * b.toInt := BitVec.le_toInt_mul_toInt
  have high : a.toInt * b.toInt ≤ 2 ^ (h * 2 - 2) := BitVec.toInt_mul_toInt_le
  have half : (2 : Int) ^ (h * 2 - 2) < 2 ^ (2 * h - 1) := pow_lt_pow_right₀ (by decide) (by omega)
  exact BitVec.toInt_ofInt_eq_self (by omega) (by omega) (by omega)

/-- A remainder of a division by a number of `h` bits fits in `h` bits (41_arithmetic.md R166). -/
theorem fitsSigned_tmod {h : Nat} (n : Int) {m : BitVec h} (nonzero : m.toInt ≠ 0) :
    fitsSigned h (n.tmod m.toInt) := by
  have size : (n.tmod m.toInt).natAbs < m.toInt.natAbs := by
    rw [Int.natAbs_tmod]
    exact Nat.mod_lt _ (by omega)
  have low := m.le_toInt
  have high := m.toInt_lt
  constructor <;> omega

/- The operations on long and quad registers are one operation at two widths. -/

/-- `read` and `write` are the views of a register of `n` bits that is made of the word registers `rs`
(10_state.md R22, R23). -/
structure RegisterView {n : Nat} (rs : List Reg) (read : State → BitVec n) (write : BitVec n → State → State) :
    Prop where
  read_write : ∀ v s, read (write v s) = v
  read_setFcw : ∀ f s, f.sn = s.fcw.sn → read (setFcw f s) = read s
  read_spend : ∀ k s, read (spend k s) = read s
  read_advance : ∀ k s, read (advance k s) = read s
  write_pc : ∀ v s, (write v s).pc = s.pc
  write_fcw : ∀ v s, (write v s).fcw = s.fcw
  frame : ∀ g v s, OnlyChanges g rs [] [] s (write v s)

theorem registerView_reg (w : Width) (d : Reg) : RegisterView (homes w d) (readReg w d) (writeReg w d) where
  read_write := readReg_writeReg_same w d
  read_setFcw := readReg_setFcw w d
  read_spend := readReg_spend w d
  read_advance := readReg_advance w d
  write_pc := writeReg_pc w d
  write_fcw := writeReg_fcw w d
  frame g := frame_writeReg g w d

theorem registerView_quad (d : Reg) : RegisterView (quadHomes d) (readQuad d) (writeQuad d) where
  read_write := readQuad_writeQuad_same d
  read_setFcw := readQuad_setFcw d
  read_spend := readQuad_spend d
  read_advance := readQuad_advance d
  write_pc := writeQuad_pc d
  write_fcw := writeQuad_fcw d
  frame g := frame_writeQuad g d

section
variable {i : Instr} {k h n : Nat} {s : State} {rs : List Reg} {read : State → BitVec n}
  {write : BitVec n → State → State}

/- Sign extension (41_arithmetic.md R167). -/

theorem signExtend_effect {m : Nat} {x : BitVec m} (view : RegisterView rs read write) (len : (encode i).length = k)
    (run : exec i s = .next (advance k (write (x.signExtend n) s))) (wider : m ≤ n) :
    Effect i s (after i s) (fun _ => s.fcw) rs [] [] fun t => (read t).toInt = x.toInt := by
  refine effect_of_advance len run (view.write_pc ..) (view.write_fcw ..) (view.frame ..) ?_
  rw [view.read_advance, view.read_write, BitVec.toInt_signExtend_of_le wider]

/- MULT, MULTL (41_arithmetic.md R169). -/

theorem multiply_effect {x y : BitVec h} {write : BitVec (2 * h) → State → State} {read : State → BitVec (2 * h)}
    (view : RegisterView rs read write) (hh : 0 < h) (len : (encode i).length = k)
    (run : exec i s = .next (advance k (setFcw (s.fcw.setProduct h (x.toInt * y.toInt))
      (write (BitVec.ofInt (2 * h) (x.toInt * y.toInt)) s)))) :
    Effect i s (after i s) (fun _ => productFlags h (x.toInt * y.toInt) s.fcw) rs [] []
      fun t => (read t).toInt = x.toInt * y.toInt := by
  have mode : (s.fcw.setProduct h (x.toInt * y.toInt)).sn =
      (write (BitVec.ofInt (2 * h) (x.toInt * y.toInt)) s).fcw.sn := by rw [view.write_fcw]; rfl
  refine effect_of_advance len run (view.write_pc ..) rfl ((view.frame ..).flagsSet mode) ?_
  rw [view.read_advance, view.read_setFcw _ _ mode, view.read_write, toInt_ofInt_mul hh]

/- DIV, DIVL (41_arithmetic.md R166). -/

theorem quotient_byZero {n m : Int} (hm : m = 0) : quotient h n m = .byZero := if_pos hm

theorem quotient_fits {n m : Int} (hm : m ≠ 0) (fits : fitsSigned h (n.tdiv m)) :
    quotient h n m = .fits (n.tdiv m) (n.tmod m) := by
  rw [quotient, if_neg hm, Int.tmod_def, Int.mul_comm m]
  exact if_pos fits

theorem quotient_overflow {n m : Int} (hm : m ≠ 0) (big : ¬ fitsSigned h (n.tdiv m)) :
    quotient h n m = .overflow := by
  rw [quotient, if_neg hm]
  exact if_neg big

theorem divideFlags_sn (q : Quotient) (s : State) : (divideFlags q s).sn = s.fcw.sn := by cases q <;> rfl

/-- The destination after a division, a register of twice `h` bits: as before, `free`, or remainder and quotient. -/
def putQuotient (write : BitVec (h + h) → State → State) (free : BitVec (h + h)) (s : State) : Quotient → State
  | .byZero => s
  | .overflow => write free s
  | .fits q rem => write (BitVec.ofInt h rem ++ BitVec.ofInt h q) s

/-- The state after a division by an instruction of `k` words. -/
def divided (k : Nat) (write : BitVec (h + h) → State → State) (free : BitVec (h + h)) (s : State) (q : Quotient) :
    State :=
  advance k (spend 4 (setFcw (divideFlags q s) (putQuotient write free s q)))

section
variable {write : BitVec (h + h) → State → State} {read : State → BitVec (h + h)} {free : BitVec (h + h)}
  {q : Quotient} (view : RegisterView rs read write)
include view

theorem putQuotient_keeps : (putQuotient write free s q).pc = s.pc ∧ (putQuotient write free s q).fcw = s.fcw := by
  cases q with
  | byZero => exact ⟨rfl, rfl⟩
  | overflow => exact ⟨view.write_pc .., view.write_fcw ..⟩
  | fits q rem => exact ⟨view.write_pc .., view.write_fcw ..⟩

theorem putQuotient_frame (g : Guard) : OnlyChanges g rs [] [] s (putQuotient write free s q) := by
  cases q with
  | byZero => exact (OnlyChanges.refl g s).mono (by simp)
  | overflow => exact view.frame ..
  | fits q rem => exact view.frame ..

theorem putQuotient_mode : (divideFlags q s).sn = (putQuotient write free s q).fcw.sn := by
  rw [divideFlags_sn, (putQuotient_keeps view).2]

theorem read_divided : read (divided k write free s q) = read (putQuotient write free s q) := by
  rw [divided, view.read_advance, view.read_spend, view.read_setFcw _ _ (putQuotient_mode view)]

/-- The effect of a division whose outcome is `q`. -/
theorem divided_effect {flags : Fcw → Fcw} {holds : State → Prop} (len : (encode i).length = k)
    (run : exec i s = .next (divided k write free s q)) (fcw : divideFlags q s = flags (divideFlags q s))
    (result : holds (divided k write free s q)) : Effect i s (after i s) flags rs [] [] holds := by
  obtain ⟨pc, _⟩ := putQuotient_keeps view
  exact effect_of_advance len run pc fcw (((putQuotient_frame view _).flagsSet (putQuotient_mode view)).spent 4) result

/-- The three cases of a division of `n` by a number of `h` bits, the quotient in the low half (R166). -/
theorem divide_effect {n : Int} {m : BitVec h} {quot rem : State → BitVec h} (hh : 0 < h)
    (low : ∀ t, (read t).extractLsb' 0 h = quot t) (high : ∀ t, (read t).extractLsb' h h = rem t)
    (len : (encode i).length = k) (run : exec i s = .next (divided k write free s (quotient h n m.toInt))) :
    DivideEffect i s h n m.toInt rs (fun t => read t = read s) (fun t => (quot t).toInt) fun t => (rem t).toInt := by
  refine ⟨fun zero => ?_, fun nonzero fits => ?_, fun nonzero big => ?_⟩
  · rw [quotient_byZero zero] at run
    exact divided_effect view len run rfl (read_divided view)
  · rw [quotient_fits nonzero fits] at run
    refine divided_effect view len run rfl ?_
    simp only [← low, ← high]
    rw [read_divided view, putQuotient, view.read_write, extract_append_lo, extract_append_hi]
    exact ⟨toInt_ofInt_of_fitsSigned hh fits, toInt_ofInt_of_fitsSigned hh (fitsSigned_tmod n nonzero)⟩
  · rw [quotient_overflow nonzero big] at run
    exact divided_effect view len run rfl trivial

end

end

/- Each instruction is the operation at one width. -/

/-- Settles O22: each register is written with the sign extension of its low half. -/
theorem signExtensionResults : Obligations.SignExtensionResults := fun _ d =>
  ⟨signExtend_effect (registerView_reg .word d) rfl rfl (by decide),
    signExtend_effect (registerView_reg .long d) rfl rfl (by decide),
    signExtend_effect (registerView_quad d) rfl rfl (by decide)⟩

theorem multiplyWord_eq {d : Reg} {src : Src 16} {s : State} (ready : srcReady .word src s = true) :
    let p := (readWord (d + 1#4) s).toInt * BitVec.toInt (srcValue .word src s)
    multiplyWord d src s =
      .next (advance (1 + src.words) (setFcw (s.fcw.setProduct 16 p) (writeLong d (BitVec.ofInt 32 p) s))) := by
  rw [multiplyWord, readSrc_ready (w := .word) ready, andThen_next]

theorem multiplyLong_eq {d : Reg} {src : Src 32} {s : State} (ready : srcReady .long src s = true) :
    let p := (readLong (d + 2#4) s).toInt * BitVec.toInt (srcValue .long src s)
    multiplyLong d src s =
      .next (advance (1 + src.words) (setFcw (s.fcw.setProduct 32 p) (writeQuad d (BitVec.ofInt 64 p) s))) := by
  rw [multiplyLong, readSrc_ready (w := .long) ready, andThen_next]

/-- Settles O20: the product of two numbers fits in twice their width. -/
theorem multiplyResults : Obligations.MultiplyResults :=
  ⟨fun _ d src ready =>
      multiply_effect (registerView_reg .long d) (by decide) (encodeTwo_length .word _ d src) (multiplyWord_eq ready),
    fun _ d src ready =>
      multiply_effect (registerView_quad d) (by decide) (encodeTwo_length .long _ d src) (multiplyLong_eq ready)⟩

theorem divideWord_eq {d : Reg} {src : Src 16} {s : State} (ready : srcReady .word src s = true) :
    divideWord d src s = .next (divided (h := 16) (1 + src.words) (writeLong d) ((draw 0 s).extractLsb' 0 32) s
      (quotient 16 (readLong d s).toInt (BitVec.toInt (srcValue .word src s)))) := by
  rw [divideWord, readSrc_ready (w := .word) ready, andThen_next]
  cases quotient 16 (readLong d s).toInt (BitVec.toInt (srcValue .word src s)) <;> rfl

theorem divideLong_eq {d : Reg} {src : Src 32} {s : State} (ready : srcReady .long src s = true) :
    divideLong d src s = .next (divided (h := 32) (1 + src.words) (writeQuad d) (draw 0 s) s
      (quotient 32 (readQuad d s).toInt (BitVec.toInt (srcValue .long src s)))) := by
  rw [divideLong, readSrc_ready (w := .long) ready, andThen_next]
  cases quotient 32 (readQuad d s).toInt (BitVec.toInt (srcValue .long src s)) <;> rfl

/-- Settles O21: in each case of the quotient the destination holds the halves that fit. -/
theorem divideResults : Obligations.DivideResults :=
  ⟨fun _ d src ready =>
      divide_effect (registerView_reg .long d) (by decide) (fun _ => word_lo _ _) (fun _ => word_hi _ _)
        (encodeTwo_length .word _ d src) (divideWord_eq ready),
    fun _ d src ready =>
      divide_effect (registerView_quad d) (by decide) (fun _ => long_lo _ _) (fun _ => long_hi _ _)
        (encodeTwo_length .long _ d src) (divideLong_eq ready)⟩

end Sys2Proof
end

section
/-! PROOFS. Decimal adjust: the correction table of DAB as a partial function, and the decimal sums and differences it
gives (41_arithmetic.md R164). -/

namespace Sys2Proof

open Machine

/- The table. -/

/-- The row as the statement writes it. -/
def dabTuple (row : DabRow) : Bool × Bool × (Nat × Nat) × Bool × (Nat × Nat) × Byte × Bool :=
  (row.d, row.c, (row.hiMin, row.hiMax), row.h, (row.loMin, row.loMax), row.add, row.carry)

theorem dabRows_eq : dabRows = dabTable.map dabTuple := rfl

theorem fits_iff {row : DabRow} {d c h : Bool} {hi lo : Nat} : row.fits d c h hi lo = true ↔
    row.d = d ∧ row.c = c ∧ row.h = h ∧ row.hiMin ≤ hi ∧ hi ≤ row.hiMax ∧ row.loMin ≤ lo ∧ lo ≤ row.loMax := by
  simp only [DabRow.fits, Bool.and_eq_true, beq_iff_eq, decide_eq_true_eq, and_assoc]

theorem dabFits_iff {row : DabRow} {v : Byte} {f : Fcw} :
    dabFits (dabTuple row) v f ↔ row.fits f.d f.c f.h (v.toNat / 16) (v.toNat % 16) = true := by
  rw [fits_iff]
  simp only [dabFits, dabTuple]
  tauto

/-- No input is in two rows: two rows differ in a flag, or the ranges of a digit are apart. -/
theorem dabTable_apart : ∀ row ∈ dabTable, ∀ other ∈ dabTable,
    row = other ∨ row.d ≠ other.d ∨ row.c ≠ other.c ∨ row.h ≠ other.h ∨
      row.hiMax < other.hiMin ∨ other.hiMax < row.hiMin ∨ row.loMax < other.loMin ∨ other.loMax < row.loMin := by
  decide

theorem dabTable_unique {row other : DabRow} {d c h : Bool} {hi lo : Nat} (mem : row ∈ dabTable)
    (mem' : other ∈ dabTable) (fits : row.fits d c h hi lo = true) (fits' : other.fits d c h hi lo = true) :
    row = other := by
  obtain ⟨rfl, rfl, rfl, _⟩ := fits_iff.mp fits
  obtain ⟨hd, hc, hh, _⟩ := fits_iff.mp fits'
  rcases dabTable_apart row mem other mem' with e | e | e | e | e
  · exact e
  · exact absurd hd.symm e
  · exact absurd hc.symm e
  · exact absurd hh.symm e
  · omega

/-- The lookup answers the row that fits. -/
theorem dabLookup_of_fits {row : DabRow} {v : Byte} {d c h : Bool} (mem : row ∈ dabTable)
    (fits : row.fits d c h (v.toNat / 16) (v.toNat % 16) = true) :
    dabLookup v d c h = some (row.add, row.carry) := by
  cases found : dabTable.find? fun r => r.fits d c h (v.toNat / 16) (v.toNat % 16) with
  | none => exact absurd fits (List.find?_eq_none.mp found row mem)
  | some other =>
    have fits' := List.find?_some found
    rw [dabLookup, found, dabTable_unique (List.mem_of_find?_eq_some found) mem fits' fits]

/-- Without a row that fits the lookup answers none. -/
theorem dabLookup_of_no_fit {v : Byte} {d c h : Bool}
    (none_fits : ∀ row ∈ dabTable, ¬ row.fits d c h (v.toNat / 16) (v.toNat % 16) = true) :
    dabLookup v d c h = none := by
  rw [dabLookup, List.find?_eq_none.mpr none_fits]

/- The instruction. -/

section
variable {s : State} {d : Reg}

theorem decimalAdjust_of_row {k : Byte} {c : Bool}
    (found : dabLookup (readByte d s) s.fcw.d s.fcw.c s.fcw.h = some (k, c)) :
    let r := readByte d s + k
    decimalAdjust d s =
      .next (advance 1 (spend 4 (setFcw (s.fcw.setCZSV c (decide (r = 0#8)) r.msb s.fcw.pv) (writeByte d r s)))) := by
  rw [decimalAdjust, found]

theorem decimalAdjust_of_none (absent : dabLookup (readByte d s) s.fcw.d s.fcw.c s.fcw.h = none) :
    decimalAdjust d s =
      .next (advance 1 (spend 4 (setFcw (s.fcw.setCZSV (drawBit 1 s) (drawBit 2 s) (drawBit 3 s) s.fcw.pv)
        (writeByte d ((draw 0 s).extractLsb' 0 8) s)))) := by
  rw [decimalAdjust, absent]

end

/-- Settles O23: the lookup answers the row that fits, or none. -/
theorem decimalAdjustResult : Obligations.DecimalAdjustResult := by
  refine fun s d => ⟨?_, fun none_fits => ?_⟩
  · rw [dabRows_eq, List.forall_mem_map]
    intro row mem fits r
    have found := dabLookup_of_fits mem (dabFits_iff.mp fits)
    rw [decide_toInt_neg]
    exact regEffect_of_spent_flags rfl (decimalAdjust_of_row found) rfl rfl
  · rw [dabRows_eq, List.forall_mem_map] at none_fits
    have absent := dabLookup_of_no_fit fun row mem fits => none_fits row mem (dabFits_iff.mpr fits)
    have effect : RegEffect (.dab d) s .byte d ((draw 0 s).extractLsb' 0 8)
        fun u => { s.fcw with c := u.c, z := u.z, s := u.s } :=
      regEffect_of_spent_flags rfl (decimalAdjust_of_none absent) rfl rfl
    obtain ⟨t, run, pc, fcw, ⟨_, others⟩, frame⟩ := effect
    exact ⟨t, run, pc, fcw, others rfl, frame⟩

/- Decimal sums and differences. -/

theorem bcd_toNat {n : Nat} (hn : n < 100) : (bcd n).toNat = 16 * (n / 10) + n % 10 := by
  rw [bcd, BitVec.toNat_ofNat]; omega

/-- The row is for a byte of the digits `P` and `Q`, and corrects it to the decimal digits `p` and `q`. -/
def Corrects (row : DabRow) (P Q p q : Nat) : Prop :=
  row.hiMin ≤ P ∧ P ≤ row.hiMax ∧ row.loMin ≤ Q ∧ Q ≤ row.loMax ∧ Q < 16 ∧ p < 10 ∧ q < 10 ∧
    (16 * P + Q + row.add.toNat) % 256 = 16 * p + q

/-- What the lookup answers for a byte that the row corrects. -/
theorem lookup_of_corrects {row : DabRow} {v : Byte} {P Q p q n : Nat} (mem : row ∈ dabTable)
    (correct : Corrects row P Q p q) (byte : v.toNat = 16 * P + Q) (number : n = 10 * p + q) :
    ∃ k, dabLookup v row.d row.c row.h = some (k, row.carry) ∧ v + k = bcd n := by
  obtain ⟨hiMin, hiMax, loMin, loMax, hQ, hp, hq, sum⟩ := correct
  refine ⟨row.add, dabLookup_of_fits mem (fits_iff.mpr ⟨rfl, rfl, rfl, ?_, ?_, ?_, ?_⟩), BitVec.eq_of_toNat_eq ?_⟩
  · omega
  · omega
  · omega
  · omega
  · rw [BitVec.toNat_add, byte, sum, bcd_toNat (by omega)]
    omega

/-- The nine rows for sums. `high` is the sum of the high digits, `low` that of the low digits and the carry in; each
digit needs no correction, one, or one with a carry of the binary sum. -/
theorem exists_sum_row {high low : Nat} (hhigh : high ≤ 18) (hlow : low ≤ 19) :
    ∃ row ∈ dabTable, ∃ P Q p q, Corrects row P Q p q ∧
      16 * P + Q = (16 * high + low) % 256 ∧ 10 * p + q = (10 * high + low) % 100 ∧
      row.d = false ∧ row.c = decide (256 ≤ 16 * high + low) ∧ row.h = decide (16 ≤ low) ∧
      row.carry = decide (100 ≤ 10 * high + low) := by
  have lowDigit : low < 10 ∨ (10 ≤ low ∧ low < 16) ∨ 16 ≤ low := by omega
  have highDigit : 10 * high + low < 100 ∨ (100 ≤ 10 * high + low ∧ 16 * high + low < 256) ∨
    256 ≤ 16 * high + low := by omega
  rcases lowDigit with l | l | l <;> rcases highDigit with h | h | h
  · exact ⟨dabTable[0], List.getElem_mem _, high, low, high, low, by simp [Corrects, dabTable]; omega⟩
  · exact ⟨dabTable[3], List.getElem_mem _, high, low, high - 10, low, by simp [Corrects, dabTable]; omega⟩
  · exact ⟨dabTable[6], List.getElem_mem _, high - 16, low, high - 10, low, by simp [Corrects, dabTable]; omega⟩
  · exact ⟨dabTable[1], List.getElem_mem _, high, low, high + 1, low - 10, by simp [Corrects, dabTable]; omega⟩
  · exact ⟨dabTable[4], List.getElem_mem _, high, low, high - 9, low - 10, by simp [Corrects, dabTable]; omega⟩
  · exact ⟨dabTable[7], List.getElem_mem _, high - 16, low, high - 9, low - 10,
      by simp [Corrects, dabTable]; omega⟩
  · exact ⟨dabTable[2], List.getElem_mem _, high + 1, low - 16, high + 1, low - 10,
      by simp [Corrects, dabTable]; omega⟩
  · exact ⟨dabTable[5], List.getElem_mem _, high + 1, low - 16, high - 9, low - 10,
      by simp [Corrects, dabTable]; omega⟩
  · exact ⟨dabTable[8], List.getElem_mem _, high - 15, low - 16, high - 9, low - 10,
      by simp [Corrects, dabTable]; omega⟩

/-- The four rows for differences of the digits `a`, `b` and `e`, `g` with the borrow in added to `g`; each digit needs
a correction exactly when it borrows. -/
theorem exists_difference_row {a b e g : Nat} (ha : a ≤ 9) (hb : b ≤ 9) (he : e ≤ 9) (hg : g ≤ 10) :
    ∃ row ∈ dabTable, ∃ P Q p q, Corrects row P Q p q ∧
      16 * P + Q = (256 + 16 * a + b - 16 * e - g) % 256 ∧ 10 * p + q = (100 + 10 * a + b - 10 * e - g) % 100 ∧
      row.d = true ∧ row.c = decide (16 * a + b < 16 * e + g) ∧ row.h = decide (b < g) ∧
      row.carry = decide (10 * a + b < 10 * e + g) := by
  have lowDigit : g ≤ b ∨ b < g := by omega
  have highDigit : 10 * e + g ≤ 10 * a + b ∨ 10 * a + b < 10 * e + g := by omega
  rcases lowDigit with l | l <;> rcases highDigit with h | h
  · exact ⟨dabTable[9], List.getElem_mem _, a - e, b - g, a - e, b - g, by simp [Corrects, dabTable]; omega⟩
  · exact ⟨dabTable[11], List.getElem_mem _, a + 16 - e, b - g, a + 10 - e, b - g,
      by simp [Corrects, dabTable]; omega⟩
  · exact ⟨dabTable[10], List.getElem_mem _, a - e - 1, b + 16 - g, a - e - 1, b + 10 - g,
      by simp [Corrects, dabTable]; omega⟩
  · exact ⟨dabTable[12], List.getElem_mem _, a + 15 - e, b + 16 - g, a + 9 - e, b + 10 - g,
      by simp [Corrects, dabTable]; omega⟩

theorem sum_adjusts {x y : Nat} (cin : Bool) (hx : x < 100) (hy : y < 100) :
    ∃ k, dabLookup (addW (bcd x) (bcd y) cin).r false (addW (bcd x) (bcd y) cin).c (addW (bcd x) (bcd y) cin).h =
        some (k, decide (100 ≤ x + y + cin.toNat)) ∧
      (addW (bcd x) (bcd y) cin).r + k = bcd ((x + y + cin.toNat) % 100) := by
  have cin_le := Bool.toNat_le cin
  obtain ⟨row, mem, P, Q, p, q, correct, byte, number, d, c, h, carry⟩ :=
    exists_sum_row (high := x / 10 + y / 10) (low := x % 10 + y % 10 + cin.toNat) (by omega) (by omega)
  have result : (addW (bcd x) (bcd y) cin).r.toNat = 16 * P + Q := by
    simp only [addW, BitVec.toNat_ofNat, bcd_toNat hx, bcd_toNat hy]; omega
  have binaryCarry : (addW (bcd x) (bcd y) cin).c = row.c := by
    simp only [addW, bcd_toNat hx, bcd_toNat hy, c, decide_eq_decide]; omega
  have halfCarry : (addW (bcd x) (bcd y) cin).h = row.h := by
    simp only [addW_h, bcd_toNat hx, bcd_toNat hy, h, decide_eq_decide]; omega
  have decimalCarry : decide (100 ≤ x + y + cin.toNat) = row.carry := by
    simp only [carry, decide_eq_decide]; omega
  rw [binaryCarry, halfCarry, decimalCarry, ← d]
  exact lookup_of_corrects mem correct result (by omega)

theorem difference_adjusts {x y : Nat} (bin : Bool) (hx : x < 100) (hy : y < 100) :
    ∃ k, dabLookup (subW (bcd x) (bcd y) bin).r true (subW (bcd x) (bcd y) bin).c (subW (bcd x) (bcd y) bin).h =
        some (k, decide (x < y + bin.toNat)) ∧
      (subW (bcd x) (bcd y) bin).r + k = bcd ((100 + x - y - bin.toNat) % 100) := by
  have bin_le := Bool.toNat_le bin
  obtain ⟨row, mem, P, Q, p, q, correct, byte, number, d, c, h, carry⟩ :=
    exists_difference_row (a := x / 10) (b := x % 10) (e := y / 10) (g := y % 10 + bin.toNat) (by omega) (by omega)
      (by omega) (by omega)
  have result : (subW (bcd x) (bcd y) bin).r.toNat = 16 * P + Q := by
    simp only [subW_r, BitVec.toNat_sub, BitVec.toNat_ofNat, bcd_toNat hx, bcd_toNat hy]; omega
  have binaryBorrow : (subW (bcd x) (bcd y) bin).c = row.c := by
    simp only [subW_c, bcd_toNat hx, bcd_toNat hy, c, decide_eq_decide]; omega
  have halfBorrow : (subW (bcd x) (bcd y) bin).h = row.h := by
    simp only [subW_h, bcd_toNat hx, bcd_toNat hy, h, decide_eq_decide]; omega
  have decimalBorrow : decide (x < y + bin.toNat) = row.carry := by
    simp only [carry, decide_eq_decide]; omega
  rw [binaryBorrow, halfBorrow, decimalBorrow, ← d]
  exact lookup_of_corrects mem correct result (by omega)

/-- Settles O24: the binary flags and digits of a sum or difference select the row that corrects it. -/
theorem decimalAdjustCorrects : Obligations.DecimalAdjustCorrects :=
  fun _ _ cin hx hy => ⟨sum_adjusts cin hx hy, difference_adjusts cin hx hy⟩

end Sys2Proof
end

section
/-! PROOFS. The logical and bit instructions (42_logical_bit.md R181, R183 to R186, R190 to R193, R195): results, flags
and frames. -/

namespace Sys2Proof

open Machine

/- AND, OR, XOR (42_logical_bit.md R181, R183, R185). -/

theorem logical_spec {w : Width} {op : BitVec w.bits → BitVec w.bits → BitVec w.bits} {mk : Reg → Src w.bits → Instr}
    (len : ∀ d src, (encode (mk d src)).length = 1 + src.words)
    (run : ∀ d src s, exec (mk d src) s = logical w op d src s) : LogicalSpec w op mk := by
  intro s d src ready r
  rw [← setLogic_eq_logicFlags]
  refine regEffect_of_flags (len d src) ?_ (setLogic_sn ..) rfl
  rw [run, logical, readSrc_ready ready, andThen_next]

/-- Settles O25: the three operations on bits, at both widths. -/
theorem logicalResults : Obligations.LogicalResults :=
  ⟨logical_spec (encodeTwo_length .byte _) fun _ _ _ => rfl, logical_spec (encodeTwo_length .word _) fun _ _ _ => rfl,
    logical_spec (encodeTwo_length .byte _) fun _ _ _ => rfl, logical_spec (encodeTwo_length .word _) fun _ _ _ => rfl,
    logical_spec (encodeTwo_length .byte _) fun _ _ _ => rfl, logical_spec (encodeTwo_length .word _) fun _ _ _ => rfl⟩

/- TEST (42_logical_bit.md R184). -/

/-- The flags of TEST, where P/V of the word and long forms is whatever it becomes (R184). -/
theorem testFlags_eq (w : Width) (r : BitVec w.bits) (s : State) :
    testFlags w r s =
      { s.fcw with
        z := decide (r = 0)
        s := decide (r.toInt < 0)
        pv := if w = .byte then evenOnes r else (testFlags w r s).pv } := by
  rw [decide_toInt_neg, ← evenParity_eq_evenOnes]
  cases w <;> rfl

theorem testFlags_sn (w : Width) (r : BitVec w.bits) (s : State) : (testFlags w r s).sn = s.fcw.sn := by
  rw [testFlags_eq]

theorem test_spec {w : Width} {mk : Opd → Instr} (len : ∀ o, (encode (mk o)).length = 1 + o.words)
    (run : ∀ o s, exec (mk o) s = testOpd w o s) : TestSpec w mk := by
  intro s o ready r
  have ran : exec (mk o) s = .next (advance (1 + o.words) (spend 1 (setFcw (testFlags w r s) s))) := by
    rw [run, testOpd, readOpd, readPlace_ready ready, andThen_next]
  exact effect_of_advance (len o) ran rfl (testFlags_eq w r s)
    (((OnlyChanges.refl _ s).flagsSet (testFlags_sn w r s)).spent 1) trivial

/- The number of a bit in a register (42_logical_bit.md R190). -/

theorem dynamicBit_byte (r : Reg) (s : State) : dynamicBit 3 r s = bitNumber .byte r s := by
  simp [dynamicBit, bitNumber]

theorem dynamicBit_word (r : Reg) (s : State) : dynamicBit 4 r s = bitNumber .word r s := by
  simp [dynamicBit, bitNumber]

section
variable {i : Instr} {w : Width} {n b c : Nat} {s : State} {o : Opd}

/- BIT (42_logical_bit.md R191). -/

/-- A test of the bit `c` that the instruction computes, which is `b`. -/
theorem bitTest_spec (len : (encode i).length = n) (run : exec i s = testBit w n (place o s) c s) (number : c = b) :
    BitTestSpec w i s o b := by
  subst number
  intro ready
  refine flagEffect_of_flags (f := s.fcw.setZ (!(opdValue w o s).getLsbD c)) len ?_ rfl rfl
  rw [run, testBit, readPlace_ready ready, andThen_next]

end

/-- Settles O26: the value read sets flags, and the number in a register is read modulo the width. -/
theorem testResults : Obligations.TestResults :=
  ⟨test_spec (fun o => encodeOpd_length _ o _) fun _ _ => rfl, test_spec (fun o => encodeOpd_length _ o _) fun _ _ => rfl,
    test_spec (fun o => encodeOpd_length _ o _) fun _ _ => rfl,
    fun _ o _ => bitTest_spec (encodeOpd_length _ o _) rfl rfl,
    fun _ o _ => bitTest_spec (encodeOpd_length _ o _) rfl rfl,
    fun s _ r => bitTest_spec rfl rfl (dynamicBit_byte r s), fun s _ r => bitTest_spec rfl rfl (dynamicBit_word r s)⟩

section
variable {i : Instr} {w : Width} {n b c : Nat} {s : State} {o : Opd}

/- SET, RES (42_logical_bit.md R192, R193). -/

/-- An operand read and written back changed, with no flag written. -/
theorem changeBit_effect {change : BitVec w.bits → BitVec w.bits} (len : (encode i).length = n)
    (run : exec i s = changeBit w n (place o s) change s) (ready : opdWritable w o s = true) :
    OpdEffect i s w o (change (opdValue w o s)) fun _ => s.fcw := by
  obtain ⟨t, written, holds, fcw, pc, _⟩ :=
    writePlace_ready (Guard.after n s) (change (opdValue w o s)) ready rfl fun _ _ => rfl
  refine effect_of_advance len (run.trans ?_) pc fcw (frame_writePlace written) (holdsOpd_advance.mpr holds)
  rw [changeBit, readPlace_ready (opdReady_of_opdWritable ready), andThen_next, written, andThen_next]

/-- The bit `c` that the instruction computes, which is `b`, is set. -/
theorem bitSet_spec (len : (encode i).length = n) (run : exec i s = changeBit w n (place o s) (putBit · c) s)
    (number : c = b) : BitSetSpec w i s o b := by
  subst number
  exact changeBit_effect len run

/-- The bit `c` that the instruction computes, which is `b`, is cleared. -/
theorem bitReset_spec (len : (encode i).length = n) (run : exec i s = changeBit w n (place o s) (clearBit · c) s)
    (number : c = b) : BitResetSpec w i s o b := by
  subst number
  exact changeBit_effect len run

end

/- TSET (42_logical_bit.md R195). -/

theorem testAndSet_spec {w : Width} {mk : Opd → Instr} (len : ∀ o, (encode (mk o)).length = 1 + o.words)
    (run : ∀ o s, exec (mk o) s = testAndSet w o s) : TestAndSetSpec w mk := by
  intro s o ready
  rw [decide_toInt_neg]
  refine opdEffect_of_flags (f := fun f => { f with s := (opdValue w o s).msb }) (len o) ready ?_ rfl rfl
  rw [run, testAndSet, readPlace_ready (opdReady_of_opdWritable ready), andThen_next]

/- TCC (42_logical_bit.md R186). -/

/-- An instruction of `n` words that does nothing leaves a register as it was. -/
theorem regEffect_of_unchanged {i : Instr} {n : Nat} {s : State} (w : Width) (d : Reg) (len : (encode i).length = n)
    (run : exec i s = .next (advance n s)) : RegEffect i s w d (readReg w d s) fun _ => s.fcw :=
  effect_of_advance len run rfl rfl ((OnlyChanges.refl _ s).mono (by simp))
    (holdsReg_advance.mpr ⟨rfl, fun _ _ _ => rfl⟩)

theorem tcc_spec {w : Width} {mk : CC → Reg → Instr} (len : ∀ cc d, (encode (mk cc d)).length = 1)
    (run : ∀ cc d s, exec (mk cc d) s = testCondition w cc d s) : TccSpec w mk := by
  intro s cc d
  have ran := run cc d s
  rw [testCondition] at ran
  split at ran
  case isTrue holds =>
    rw [if_pos holds, BitVec.twoPow_zero]
    exact loadReg_effect (source := .next _) (len cc d) ran rfl
  case isFalse fails =>
    rw [if_neg fails]
    exact regEffect_of_unchanged w d (len cc d) ran

/-- Settles O27: each instruction writes one value to the place it read, or leaves it. -/
theorem bitWriteResults : Obligations.BitWriteResults :=
  ⟨fun _ o _ => bitSet_spec (encodeOpd_length _ o _) rfl rfl, fun _ o _ => bitSet_spec (encodeOpd_length _ o _) rfl rfl,
    fun s _ r => bitSet_spec rfl rfl (dynamicBit_byte r s), fun s _ r => bitSet_spec rfl rfl (dynamicBit_word r s),
    fun _ o _ => bitReset_spec (encodeOpd_length _ o _) rfl rfl,
    fun _ o _ => bitReset_spec (encodeOpd_length _ o _) rfl rfl,
    fun s _ r => bitReset_spec rfl rfl (dynamicBit_byte r s), fun s _ r => bitReset_spec rfl rfl (dynamicBit_word r s),
    testAndSet_spec (fun o => encodeOpd_length _ o _) fun _ _ => rfl,
    testAndSet_spec (fun o => encodeOpd_length _ o _) fun _ _ => rfl,
    tcc_spec (fun _ _ => rfl) fun _ _ _ => rfl, tcc_spec (fun _ _ => rfl) fun _ _ _ => rfl⟩

end Sys2Proof
end

section
/-! PROOFS. Rotates and shifts (43_rotate_shift.md R200 to R212): the single steps of the model, taken one after the
other, give the closed forms of the statements. -/

namespace Sys2Proof

open Machine

/- Single steps one after the other (43_rotate_shift.md R200). -/

theorem shiftSteps_succ {n : Nat} (one : BitVec n → Bool → BitVec n × Bool) (top : Bool) (k : Nat) (x : Shifted n) :
    shiftSteps one top (k + 1) x =
      let y := shiftSteps one top k x
      let z := one y.v y.out
      ⟨z.1, z.2, y.moved || z.1.msb != top⟩ := by
  induction k generalizing x with
  | zero => rfl
  | succ k ih => exact ih _

/-- From `v` and the carry `c`, the first `m` single steps `one` give the values `value` and the bits `out` that left
last. -/
structure StepsThrough {n : Nat} (one : BitVec n → Bool → BitVec n × Bool) (v : BitVec n) (c : Bool) (m : Nat)
    (value : Nat → BitVec n) (out : Nat → Bool) : Prop where
  value_zero : value 0 = v
  out_zero : out 0 = c
  step : ∀ k < m, one (value k) (out k) = (value (k + 1), out (k + 1))

section
variable {n : Nat} {one : BitVec n → Bool → BitVec n × Bool} {v : BitVec n} {c : Bool} {m k : Nat}
  {value : Nat → BitVec n} {out : Nat → Bool}

theorem StepsThrough.shiftBy_eq (h : StepsThrough one v c m value out) (hk : k ≤ m) :
    shiftBy one k v c = ⟨value k, out k, !decide (∀ j ≤ k, (value j).msb = v.msb)⟩ := by
  induction k with
  | zero => simp [shiftBy, shiftSteps, h.value_zero, h.out_zero]
  | succ k ih =>
    have before : shiftSteps one v.msb k ⟨v, c, false⟩ = _ := ih (by omega)
    rw [shiftBy, shiftSteps_succ, before]
    simp [h.step k hk, Nat.le_add_one_iff, or_imp, forall_and, bne, Bool.beq_eq_decide_eq]

/-- `sign_change` in closed form; what the third case leaves open is whatever it becomes (R200). -/
theorem StepsThrough.signChange_eq (h : StepsThrough one v c m value out) (hk : k ≤ m) (free : Bool) :
    let pv := signChange v (shiftBy one k v c) free
    pv = if (value k).msb ≠ v.msb then true else if ∀ j ≤ k, (value j).msb = v.msb then false else pv := by
  rw [signChange, h.shiftBy_eq hk]
  by_cases kept : ∀ j ≤ k, (value j).msb = v.msb
  · simp +contextual [kept]
  · by_cases back : (value k).msb = v.msb <;> simp [kept, back]

end

/- The steps in closed form. -/

section
variable {n : Nat}

theorem shl1_steps (v : BitVec n) :
    StepsThrough shl1 v false n (fun k => v <<< k) fun k => v.getLsbD (n - k) where
  value_zero := BitVec.shiftLeft_zero v
  out_zero := BitVec.getLsbD_of_ge v n (Nat.le_refl n)
  step k hk := by
    rw [shl1, ← BitVec.shiftLeft_add, BitVec.msb_shiftLeft, BitVec.getMsbD_eq_getLsbD, decide_eq_true hk, Bool.true_and,
      Nat.sub_sub, Nat.add_comm 1 k]

theorem shr1Log_steps (v : BitVec n) :
    StepsThrough shr1Log v false n (fun k => v >>> k) fun k => if k = 0 then false else v.getLsbD (k - 1) where
  value_zero := BitVec.ushiftRight_zero v
  out_zero := rfl
  step k _ := by simp [shr1Log, BitVec.shiftRight_add]

theorem shr1Arith_steps (v : BitVec n) :
    StepsThrough shr1Arith v false n (fun k => v.sshiftRight k)
      fun k => if k = 0 then false else v.getLsbD (k - 1) where
  value_zero := BitVec.sshiftRight_zero
  out_zero := rfl
  step k hk := by
    have wide : ¬ n ≤ 0 := by omega
    simp [shr1Arith, BitVec.sshiftRight_add, BitVec.getLsbD_sshiftRight, hk, wide]

/-- The single step of SRA or SRL (R211, R212). -/
theorem shr1_steps (arith : Bool) (v : BitVec n) :
    StepsThrough (if arith then shr1Arith else shr1Log) v false n (fun k => if arith then v.sshiftRight k else v >>> k)
      fun k => if k = 0 then false else v.getLsbD (k - 1) := by
  cases arith with
  | false => exact shr1Log_steps v
  | true => exact shr1Arith_steps v

theorem rotateLeft_zero (x : BitVec n) : x.rotateLeft 0 = x := by
  simp [BitVec.rotateLeft, BitVec.rotateLeftAux, BitVec.ushiftRight_eq_zero]

theorem rotateRight_zero (x : BitVec n) : x.rotateRight 0 = x := by
  simp [BitVec.rotateRight, BitVec.rotateRightAux]

theorem rotateLeft_succ (x : BitVec n) (k : Nat) : x.rotateLeft (k + 1) = (x.rotateLeft k).rotateLeft 1 := by
  apply BitVec.eq_of_getMsbD_eq
  intro i hi
  have wide : (1 + i) % n < n := Nat.mod_lt _ (by omega)
  simp [BitVec.getMsbD_rotateLeft, hi, wide, Nat.add_assoc]

/-- The bits of a rotate to the right, counted modulo the width. -/
theorem getLsbD_rotateRight_mod (x : BitVec n) (k : Nat) {i : Nat} (hi : i < n) :
    (x.rotateRight k).getLsbD i = x.getLsbD ((k + i) % n) := by
  have hk : k % n < n := Nat.mod_lt _ (by omega)
  rw [BitVec.getLsbD_rotateRight, ← Nat.mod_add_mod k]
  generalize k % n = r at hk ⊢
  by_cases h : i < n - r
  · rw [decide_eq_true h, cond_true, Nat.mod_eq_of_lt (by omega)]
  · rw [decide_eq_false h, cond_false, decide_eq_true hi, Bool.true_and, Nat.mod_eq_sub_mod (by omega),
      Nat.mod_eq_of_lt (by omega)]
    congr 1
    omega

theorem rotateRight_succ (x : BitVec n) (k : Nat) : x.rotateRight (k + 1) = (x.rotateRight k).rotateRight 1 := by
  apply BitVec.eq_of_getLsbD_eq
  intro i hi
  have wide : (1 + i) % n < n := Nat.mod_lt _ (by omega)
  rw [getLsbD_rotateRight_mod x _ hi, getLsbD_rotateRight_mod _ _ hi, getLsbD_rotateRight_mod x _ wide,
    Nat.add_mod_mod, Nat.add_assoc]

/-- The bit that a rotate to the left moves out is bit 0 of its result (R201). -/
theorem getLsbD_zero_rotateLeft_one (hn : 0 < n) (x : BitVec n) : (x.rotateLeft 1).getLsbD 0 = x.msb := by
  rw [BitVec.getLsbD_eq_getMsbD, BitVec.getMsbD_rotateLeft, Nat.sub_zero, Nat.add_sub_cancel' hn, Nat.mod_self,
    BitVec.msb_eq_getMsbD_zero]
  simp [hn]

/-- The bit that a rotate to the right moves out is the top bit of its result (R204). -/
theorem msb_rotateRight_one (hn : 0 < n) (x : BitVec n) : (x.rotateRight 1).msb = x.getLsbD 0 := by
  rw [BitVec.msb_eq_getLsbD_last, getLsbD_rotateRight_mod x 1 (by omega), Nat.add_sub_cancel' hn, Nat.mod_self]

theorem rol1_steps (hn : 0 < n) (v : BitVec n) (c : Bool) (m : Nat) :
    StepsThrough rol1 v c m (fun k => v.rotateLeft k) fun k => if k = 0 then c else (v.rotateLeft k).getLsbD 0 where
  value_zero := rotateLeft_zero v
  out_zero := rfl
  step k _ := by rw [rol1, if_neg k.succ_ne_zero, rotateLeft_succ v k, getLsbD_zero_rotateLeft_one hn]

theorem ror1_steps (hn : 0 < n) (v : BitVec n) (c : Bool) (m : Nat) :
    StepsThrough ror1 v c m (fun k => v.rotateRight k) fun k => if k = 0 then c else (v.rotateRight k).msb where
  value_zero := rotateRight_zero v
  out_zero := rfl
  step k _ := by rw [ror1, if_neg k.succ_ne_zero, rotateRight_succ v k, msb_rotateRight_one hn]

/- The register with C above it (R202, R205). -/

theorem setWidth_carry_append (c : Bool) (v : BitVec n) : (BitVec.ofBool c ++ v).setWidth n = v := by
  simp [BitVec.setWidth_append]

theorem msb_carry_append (c : Bool) (v : BitVec n) : (BitVec.ofBool c ++ v).msb = c := by
  simp [BitVec.msb_append]

theorem getLsbD_rolc1 (v : BitVec n) (c : Bool) {i : Nat} (hi : i < n) :
    (rolc1 v c).1.getLsbD i = if i = 0 then c else v.getLsbD (i - 1) := by
  by_cases low : i = 0
  · simp [rolc1, low, Nat.zero_lt_of_lt hi]
  · have below : i - 1 < n := by omega
    simp [rolc1, low, hi, below]

theorem getLsbD_rorc1 (v : BitVec n) (c : Bool) {i : Nat} (hi : i < n) :
    (rorc1 v c).1.getLsbD i = if i = n - 1 then c else v.getLsbD (1 + i) := by
  by_cases high : i = n - 1
  · subst high
    have top : n ≤ 1 + (n - 1) := by omega
    simp [rorc1, hi, BitVec.getLsbD_of_ge _ _ top]
  · have below : i < n - 1 := by omega
    simp [rorc1, high, below]

/-- RLC by one place is a rotate of the register with C above it (R202). -/
theorem rolc1_eq (hn : 0 < n) (y : BitVec (1 + n)) :
    rolc1 (y.setWidth n) y.msb = ((y.rotateLeft 1).setWidth n, (y.rotateLeft 1).msb) := by
  have one : 1 % (1 + n) = 1 := Nat.mod_eq_of_lt (by omega)
  refine Prod.ext (BitVec.eq_of_getLsbD_eq fun i hi => ?_) ?_
  · rw [getLsbD_rolc1 _ _ hi, BitVec.getLsbD_setWidth, BitVec.getLsbD_setWidth, BitVec.getLsbD_rotateLeft, one]
    by_cases low : i = 0
    · simp [low, hn, BitVec.msb_eq_getLsbD_last]
    · have below : i - 1 < n := by omega
      have inside : i < 1 + n := by omega
      simp [low, hi, below, inside]
  · rw [BitVec.msb_rotateLeft, one, BitVec.getMsbD_eq_getLsbD]
    simp [rolc1, BitVec.msb_setWidth, hn]

/-- RRC by one place is a rotate of the register with C above it (R205). -/
theorem rorc1_eq (hn : 0 < n) (y : BitVec (1 + n)) :
    rorc1 (y.setWidth n) y.msb = ((y.rotateRight 1).setWidth n, (y.rotateRight 1).msb) := by
  refine Prod.ext (BitVec.eq_of_getLsbD_eq fun i hi => ?_) ?_
  · rw [getLsbD_rorc1 _ _ hi, BitVec.getLsbD_setWidth, BitVec.getLsbD_setWidth,
      getLsbD_rotateRight_mod y 1 (by omega), Nat.mod_eq_of_lt (by omega)]
    by_cases high : i = n - 1
    · simp [high, hn, BitVec.msb_eq_getLsbD_last, Nat.add_sub_cancel' hn]
    · have below : 1 + i < n := by omega
      simp [high, hi, below]
  · rw [msb_rotateRight_one (by omega)]
    simp [rorc1, hn]

theorem rolc1_steps (hn : 0 < n) (v : BitVec n) (c : Bool) (m : Nat) :
    let x : BitVec (1 + n) := BitVec.ofBool c ++ v
    StepsThrough rolc1 v c m (fun k => (x.rotateLeft k).setWidth n) fun k => (x.rotateLeft k).msb where
  value_zero := by rw [rotateLeft_zero, setWidth_carry_append]
  out_zero := by rw [rotateLeft_zero, msb_carry_append]
  step k _ := by rw [rolc1_eq hn, ← rotateLeft_succ]

theorem rorc1_steps (hn : 0 < n) (v : BitVec n) (c : Bool) (m : Nat) :
    let x : BitVec (1 + n) := BitVec.ofBool c ++ v
    StepsThrough rorc1 v c m (fun k => (x.rotateRight k).setWidth n) fun k => (x.rotateRight k).msb where
  value_zero := by rw [rotateRight_zero, setWidth_carry_append]
  out_zero := by rw [rotateRight_zero, msb_carry_append]
  step k _ := by rw [rorc1_eq hn, ← rotateRight_succ]

end

/- What an instruction leaves that shifts a register. -/

/-- Less may be said of what the next state holds. -/
theorem Effect.imp {i : Instr} {s : State} {pc : Addr} {flags : Fcw → Fcw} {rs : List Reg} {bs : List Addr}
    {es : List IoEvent} {P Q : State → Prop} (h : Effect i s pc flags rs bs es P) (weaker : ∀ t, P t → Q t) :
    Effect i s pc flags rs bs es Q := by
  obtain ⟨t, run, pc, fcw, holds, frame⟩ := h
  exact ⟨t, run, pc, fcw, weaker t holds, frame⟩

section
variable {i : Instr} {w : Width} {m : Nat} {s : State} {d : Reg}

/-- The register receives `x`, which is `r`, C becomes `c` and P/V `v`, with `k` free values used. -/
theorem shiftEffect_of_flags {k : Nat} {x r : BitVec w.bits} {c v : Bool} {carry pv : Fcw → Bool}
    (len : (encode i).length = m)
    (run : exec i s =
      .next (advance m (spend k (setFcw (s.fcw.setCZSV c (decide (x = 0#_)) x.msb v) (writeReg w d x s)))))
    (result : x = r) (hc : ∀ u : Fcw, u.c = c → c = carry u) (hv : ∀ u : Fcw, u.pv = v → v = pv u) :
    ShiftEffect w i s d r carry pv := by
  subst result
  refine regEffect_of_spent_flags len run rfl ?_
  rw [decide_toInt_neg, ← hc _ rfl, ← hv _ rfl]
  rfl

/- Rotates (R201, R202, R204, R205). -/

/-- After one place or two the top bit never changed exactly when it did not at the first (R200). -/
theorem kept_iff_of_rotate {n : Nat} {v : BitVec n} {value : Nat → BitVec n} (start : value 0 = v) (two : Bool)
    (back : (value (if two then 2 else 1)).msb = v.msb) :
    (∀ j ≤ (if two then 2 else 1), (value j).msb = v.msb) ↔ (value 1).msb = v.msb := by
  refine ⟨fun kept => kept 1 (by cases two <;> decide), fun first j hj => ?_⟩
  match j with
  | 0 => rw [start]
  | 1 => exact first
  | j + 2 =>
    cases two
    · simp at hj
    · obtain rfl : j = 0 := by simpa using hj
      exact back

/-- A rotate by one place or two, whose single steps are known. -/
theorem rotate_effect {one : BitVec w.bits → Bool → BitVec w.bits × Bool} {value : Nat → BitVec w.bits}
    {out : Nat → Bool} {two : Bool} (len : (encode i).length = 1) (run : exec i s = rotate w one d two s)
    (steps : StepsThrough one (readReg w d s) s.fcw.c 2 value out) :
    let k := if two then 2 else 1
    ShiftEffect w i s d (value k) (fun _ => out k) fun u => rotateSign (readReg w d s) (value 1) (value k) u.pv := by
  intro k
  have hk : k ≤ 2 := by cases two <;> decide
  have turned := steps.shiftBy_eq hk
  have sign := steps.signChange_eq hk (drawBit 0 s)
  refine shiftEffect_of_flags len run (congrArg Shifted.v turned) (fun _ _ => congrArg Shifted.out turned)
    fun u hu => ?_
  rw [hu]
  exact sign.trans (ite_congr rfl (fun _ => rfl) fun back =>
    ite_congr (propext (kept_iff_of_rotate steps.value_zero two (not_not.mp back))) (fun _ => rfl) fun _ => rfl)

/- Shifts (R207 to R212). -/

theorem shiftLeft_effect {arith : Bool} {n : Nat} (len : (encode i).length = m)
    (run : exec i s = .next (advance m (shiftLeft w arith d n s))) (hn : n ≤ w.bits) :
    LeftShiftEffect w arith i s d n := by
  have shifted := (shl1_steps (readReg w d s)).shiftBy_eq hn
  have sign := (shl1_steps (readReg w d s)).signChange_eq hn (drawBit 1 s)
  refine shiftEffect_of_flags len run (congrArg Shifted.v shifted) (fun u hu => ?_) fun u hu => ?_
  · rw [hu, shifted]
    split <;> rfl
  · rw [hu]
    cases arith with
    | false => rfl
    | true => exact sign

theorem shiftRight_effect {arith : Bool} {n : Nat} (len : (encode i).length = m)
    (run : exec i s = .next (advance m (shiftRight w arith d n s))) (positive : 1 ≤ n) (hn : n ≤ w.bits) :
    RightShiftEffect w arith i s d n := by
  have shifted := (shr1_steps arith (readReg w d s)).shiftBy_eq hn
  refine shiftEffect_of_flags len run (congrArg Shifted.v shifted) (fun _ _ => ?_) fun u hu => ?_
  · have nonzero : n ≠ 0 := by omega
    rw [if_neg nonzero, shifted]
    exact if_neg nonzero
  · rw [hu]
    cases arith <;> rfl

end

/- The specifications of each kind of instruction. -/

section
variable {w : Width} {arith : Bool}

theorem rl_spec {mk : Reg → Bool → Instr} (len : ∀ d two, (encode (mk d two)).length = 1)
    (run : ∀ d two s, exec (mk d two) s = rotate w rol1 d two s) : RotateSpec w true mk := by
  intro s d two
  have effect := rotate_effect (len d two) (run d two s) (rol1_steps w.bits_pos (readReg w d s) s.fcw.c 2)
  cases two <;> exact effect

theorem rr_spec {mk : Reg → Bool → Instr} (len : ∀ d two, (encode (mk d two)).length = 1)
    (run : ∀ d two s, exec (mk d two) s = rotate w ror1 d two s) : RotateSpec w false mk := by
  intro s d two
  have effect := rotate_effect (len d two) (run d two s) (ror1_steps w.bits_pos (readReg w d s) s.fcw.c 2)
  cases two <;> exact effect

theorem rlc_spec {mk : Reg → Bool → Instr} (len : ∀ d two, (encode (mk d two)).length = 1)
    (run : ∀ d two s, exec (mk d two) s = rotate w rolc1 d two s) : RotateCarrySpec w true mk :=
  fun s d two => rotate_effect (len d two) (run d two s) (rolc1_steps w.bits_pos (readReg w d s) s.fcw.c 2)

theorem rrc_spec {mk : Reg → Bool → Instr} (len : ∀ d two, (encode (mk d two)).length = 1)
    (run : ∀ d two s, exec (mk d two) s = rotate w rorc1 d two s) : RotateCarrySpec w false mk :=
  fun s d two => rotate_effect (len d two) (run d two s) (rorc1_steps w.bits_pos (readReg w d s) s.fcw.c 2)

theorem leftShift_spec {mk : Reg → Nat → Instr} (len : ∀ d n, (encode (mk d n)).length = 2)
    (run : ∀ d n s, exec (mk d n) s = .next (advance 2 (shiftLeft w arith d n s))) : LeftShiftSpec w arith mk :=
  fun s d n => shiftLeft_effect (len d n) (run d n s)

theorem rightShift_spec {mk : Reg → Nat → Instr} (len : ∀ d n, (encode (mk d n)).length = 2)
    (run : ∀ d n s, exec (mk d n) s = .next (advance 2 (shiftRight w arith d n s))) : RightShiftSpec w arith mk :=
  fun s d n => shiftRight_effect (len d n) (run d n s)

/-- The three cases of a dynamic shift are those of its count (R207, R208). -/
theorem dynamicShift_spec {mk : Reg → Reg → Instr} (len : ∀ d r, (encode (mk d r)).length = 2)
    (run : ∀ d r s, exec (mk d r) s = .next (advance 2 (shiftDynamic w arith d r s))) :
    DynamicShiftSpec w arith mk := by
  intro s d r n
  have ran := run d r s
  refine ⟨fun positive fits => ?_, fun negative fits => ?_, fun beyond => ?_⟩
  · rw [shiftDynamic, if_neg (by omega), if_pos positive] at ran
    exact shiftLeft_effect (len d r) ran (by omega)
  · rw [shiftDynamic, if_neg (by omega), if_neg (by omega)] at ran
    exact shiftRight_effect (len d r) ran (by omega) (by omega)
  · rw [shiftDynamic, if_pos beyond.symm] at ran
    have effect : RegEffect (mk d r) s w d ((draw 0 s).setWidth w.bits)
        fun u => { s.fcw with c := u.c, z := u.z, s := u.s, pv := u.pv } :=
      regEffect_of_spent_flags (len d r) ran rfl rfl
    exact effect.imp fun _ ⟨_, others⟩ => others

end

/-- Settles O36: each rotate is one or two of its single steps. -/
theorem rotateResults : Obligations.RotateResults :=
  ⟨rl_spec (fun _ _ => rfl) fun _ _ _ => rfl, rl_spec (fun _ _ => rfl) fun _ _ _ => rfl,
    rr_spec (fun _ _ => rfl) fun _ _ _ => rfl, rr_spec (fun _ _ => rfl) fun _ _ _ => rfl,
    rlc_spec (fun _ _ => rfl) fun _ _ _ => rfl, rlc_spec (fun _ _ => rfl) fun _ _ _ => rfl,
    rrc_spec (fun _ _ => rfl) fun _ _ _ => rfl, rrc_spec (fun _ _ => rfl) fun _ _ _ => rfl⟩

/-- Settles O38: a shift by `n` places is `n` single steps, at each width. -/
theorem staticShiftResults : Obligations.StaticShiftResults :=
  ⟨leftShift_spec (fun _ _ => rfl) fun _ _ _ => rfl, leftShift_spec (fun _ _ => rfl) fun _ _ _ => rfl,
    leftShift_spec (fun _ _ => rfl) fun _ _ _ => rfl, leftShift_spec (fun _ _ => rfl) fun _ _ _ => rfl,
    leftShift_spec (fun _ _ => rfl) fun _ _ _ => rfl, leftShift_spec (fun _ _ => rfl) fun _ _ _ => rfl,
    rightShift_spec (fun _ _ => rfl) fun _ _ _ => rfl, rightShift_spec (fun _ _ => rfl) fun _ _ _ => rfl,
    rightShift_spec (fun _ _ => rfl) fun _ _ _ => rfl, rightShift_spec (fun _ _ => rfl) fun _ _ _ => rfl,
    rightShift_spec (fun _ _ => rfl) fun _ _ _ => rfl, rightShift_spec (fun _ _ => rfl) fun _ _ _ => rfl⟩

/-- Settles O39: the count chooses among a left shift, a right shift and free values, at each width. -/
theorem dynamicShiftResults : Obligations.DynamicShiftResults :=
  ⟨dynamicShift_spec (fun _ _ => rfl) fun _ _ _ => rfl, dynamicShift_spec (fun _ _ => rfl) fun _ _ _ => rfl,
    dynamicShift_spec (fun _ _ => rfl) fun _ _ _ => rfl, dynamicShift_spec (fun _ _ => rfl) fun _ _ _ => rfl,
    dynamicShift_spec (fun _ _ => rfl) fun _ _ _ => rfl, dynamicShift_spec (fun _ _ => rfl) fun _ _ _ => rfl⟩

/- Digit rotates (R203, R206). -/

/-- Two different byte registers receive `x` and `y`. -/
theorem twoBytes_effect {i : Instr} {m k : Nat} {s : State} {l r : Reg} {x y : Byte} {f : Fcw} {flags : Fcw → Fcw}
    (apart : l ≠ r) (len : (encode i).length = m)
    (run : exec i s = .next (advance m (spend k (setFcw f (writeByte r y (writeByte l x s)))))) (mode : f.sn = s.fcw.sn)
    (fcw : f = flags f) :
    Effect i s (after i s) flags (homes .byte l ++ homes .byte r) [] [] fun t =>
      readByte l t = x ∧ readByte r t = y ∧ ∀ q, q ≠ l → q ≠ r → readByte q t = readByte q s := by
  have mode' : f.sn = (writeByte r y (writeByte l x s)).fcw.sn := by simpa using mode
  have frame := (frame_writeByte (Guard.after m s) l x s).trans (frame_writeByte _ r y _) (by simp)
  refine effect_of_advance len run (by simp) fcw ((frame.flagsSet mode').spent k) ?_
  simp only [readByte_advance, readByte_spend, readByte_setFcw _ f _ mode', readByte_writeByte, if_neg apart, if_true,
    true_and]
  intro q left right
  rw [if_neg right, if_neg left]

/-- Different registers receive the digits, which rotate by one to the left or to the right (R203, R206). -/
theorem rotateDigits_apart_effect {i : Instr} {s : State} {l r : Reg} (left : Bool) (apart : l ≠ r)
    (len : (encode i).length = 1) (run : exec i s = rotateDigits left l r s) :
    let a := readByte l s
    let b := readByte r s
    let link : Byte := a.extractLsb' 4 4 ++ (if left then b.extractLsb' 4 4 else b.extractLsb' 0 4)
    Effect i s (after i s) (fun u => { s.fcw with z := decide (link = 0), s := u.s })
      (homes .byte l ++ homes .byte r) [] [] fun t =>
        readByte l t = link ∧
        readByte r t =
          (if left then b.extractLsb' 0 4 ++ a.extractLsb' 0 4 else a.extractLsb' 0 4 ++ b.extractLsb' 4 4) ∧
        ∀ k, k ≠ l → k ≠ r → readByte k t = readByte k s := by
  rw [rotateDigits, if_neg apart] at run
  exact twoBytes_effect apart len run rfl rfl

/-- One register for both receives a free value (R203, R206). -/
theorem rotateDigits_same_effect {i : Instr} {s : State} {l : Reg} {left : Bool} (len : (encode i).length = 1)
    (run : exec i s = rotateDigits left l l s) :
    Effect i s (after i s) (fun u => { s.fcw with z := u.z, s := u.s }) (homes .byte l) [] []
      fun t => ∀ k, k ≠ l → readByte k t = readByte k s := by
  rw [rotateDigits, if_pos rfl] at run
  have effect : RegEffect i s .byte l ((draw 0 s).extractLsb' 0 8) fun u => { s.fcw with z := u.z, s := u.s } :=
    regEffect_of_spent_flags len run rfl rfl
  exact effect.imp fun _ ⟨_, others⟩ => others rfl

/-- Settles O37: two registers receive the rotated digits, one register a free value. -/
theorem digitRotateResults : Obligations.DigitRotateResults := fun _ _ _ =>
  ⟨fun apart => ⟨rotateDigits_apart_effect true apart rfl rfl, rotateDigits_apart_effect false apart rfl rfl⟩,
    List.forall_mem_cons.mpr
      ⟨rotateDigits_same_effect rfl rfl, List.forall_mem_singleton.mpr (rotateDigits_same_effect rfl rfl)⟩⟩

end Sys2Proof
end

section
/-! PROOFS. Program control (44_program_control.md R221 to R227): the conditions as the orders they are named for, where
the jumps go, the return address on the stack, and that RET undoes CALL. -/

namespace Sys2Proof

open Machine

/- The conditions after a compare (44_program_control.md R221). -/

/-- The signed readings of `2 * p` values. -/
theorem toInt_bounds {n p : Nat} (hp : 2 ^ n = 2 * p) (x : BitVec n) : -p ≤ x.toInt ∧ x.toInt < p := by
  have low := x.le_two_mul_toInt
  have high := x.two_mul_toInt_lt
  have size : (2 : Int) ^ n = 2 * p := by exact_mod_cast hp
  omega

/-- A signed difference that does not fit wraps once around the `2 * p` values. -/
theorem toInt_sub_cases {n p : Nat} (hp : 2 ^ n = 2 * p) (a b : BitVec n) :
    (a - b).toInt = a.toInt - b.toInt ∨
    (p ≤ a.toInt - b.toInt ∧ (a - b).toInt = a.toInt - b.toInt - 2 * p) ∨
    (a.toInt - b.toInt < -p ∧ (a - b).toInt = a.toInt - b.toInt + 2 * p) := by
  have fits : ∀ d : Int, -p ≤ d → d < p → d.bmod (2 * p) = d := fun d low high =>
    Int.bmod_eq_of_le (by omega) (by omega)
  obtain ⟨lowA, highA⟩ := toInt_bounds hp a
  obtain ⟨lowB, highB⟩ := toInt_bounds hp b
  rw [BitVec.toInt_sub, hp]
  by_cases above : p ≤ a.toInt - b.toInt
  · refine .inr (.inl ⟨above, ?_⟩)
    rw [← Int.sub_bmod_right, fits _ (by omega) (by omega)]
    omega
  · by_cases below : a.toInt - b.toInt < -p
    · refine .inr (.inr ⟨below, ?_⟩)
      rw [← Int.add_bmod_right, fits _ (by omega) (by omega)]
      omega
    · exact .inl (fits _ (by omega) (by omega))

/-- The sign of a difference is wrong exactly when it overflowed. -/
theorem sub_sign_xor_overflow {n : Nat} (hn : 0 < n) (a b : BitVec n) :
    (decide ((a - b).toInt < 0) ^^ decide ((a - b).toInt ≠ a.toInt - b.toInt)) = decide (a.toInt < b.toInt) := by
  have hp := Machine.two_pow_half hn
  generalize 2 ^ (n - 1) = p at hp
  obtain ⟨lowA, highA⟩ := toInt_bounds hp a
  obtain ⟨lowB, highB⟩ := toInt_bounds hp b
  rcases toInt_sub_cases hp a b with fits | ⟨above, wrapped⟩ | ⟨below, wrapped⟩
  · simp [fits]
  · have negative : (a - b).toInt < 0 := by omega
    have changed : (a - b).toInt ≠ a.toInt - b.toInt := by omega
    have order : ¬ a.toInt < b.toInt := by omega
    rw [decide_eq_true negative, decide_eq_true changed, decide_eq_false order, Bool.xor_self]
  · have nonneg : ¬ (a - b).toInt < 0 := by omega
    have changed : (a - b).toInt ≠ a.toInt - b.toInt := by omega
    have order : a.toInt < b.toInt := by omega
    rw [decide_eq_false nonneg, decide_eq_true changed, decide_eq_true order, Bool.false_xor]

/-- The flags of a compare: no borrow enters (41_arithmetic.md R163). -/
theorem cpFlags_noBorrow (w : Width) (a b : BitVec w.bits) (f : Fcw) :
    cpFlags w a b false f =
      { f with
        c := decide (a.toNat < b.toNat)
        z := decide (a = b)
        s := decide ((a - b).toInt < 0)
        pv := decide ((a - b).toInt ≠ a.toInt - b.toInt) } := by
  have result : a - b - BitVec.ofNat w.bits false.toNat = a - b := by simp
  have equal : a - b = 0 ↔ a = b := by simp [BitVec.sub_eq_iff_eq_add]
  rw [cpFlags, result]
  simp only [equal, Bool.toNat_false, Nat.add_zero, Nat.cast_zero, Int.sub_zero]

section
variable (w : Width) (a b : BitVec w.bits) (f : Fcw)

theorem cond_ult_cpFlags : Machine.cond .ult (cpFlags w a b false f) = decide (a.toNat < b.toNat) := rfl

theorem cond_eq_cpFlags : Machine.cond .eq (cpFlags w a b false f) = decide (a = b) := by
  rw [cpFlags_noBorrow]; rfl

theorem cond_lt_cpFlags : Machine.cond .lt (cpFlags w a b false f) = decide (a.toInt < b.toInt) := by
  rw [cpFlags_noBorrow]; exact sub_sign_xor_overflow w.bits_pos a b

theorem cond_le_cpFlags : Machine.cond .le (cpFlags w a b false f) = decide (a.toInt ≤ b.toInt) := by
  have either : Machine.cond .le (cpFlags w a b false f) =
      (Machine.cond .eq (cpFlags w a b false f) || Machine.cond .lt (cpFlags w a b false f)) := rfl
  rw [either, cond_eq_cpFlags, cond_lt_cpFlags, ← Bool.decide_or, decide_eq_decide, ← BitVec.toInt_inj]
  omega

theorem cond_ule_cpFlags : Machine.cond .ule (cpFlags w a b false f) = decide (a.toNat ≤ b.toNat) := by
  have either : Machine.cond .ule (cpFlags w a b false f) =
      (Machine.cond .ult (cpFlags w a b false f) || Machine.cond .eq (cpFlags w a b false f)) := rfl
  rw [either, cond_ult_cpFlags, cond_eq_cpFlags, ← Bool.decide_or, decide_eq_decide, ← BitVec.toNat_inj]
  omega

end

theorem condOn_add_eight : ∀ (k : BitVec 4) (c z s v : Bool),
    condOn (CC.ofBits (k + 8)) c z s v = !condOn (CC.ofBits k) c z s v := by decide

/-- A code plus 8 holds where the condition of the code does not (R221). -/
theorem cond_add_eight {k : BitVec 4} {f : Fcw} {p q : Prop} [Decidable p] [Decidable q]
    (holds : Machine.cond (CC.ofBits k) f = decide p) (negation : ¬ p ↔ q) :
    Machine.cond (CC.ofBits (k + 8)) f = decide q := by
  rw [Machine.cond, condOn_add_eight, ← Machine.cond, holds, ← decide_not, decide_eq_decide]
  exact negation

/-- Settles O13: the conditions of the codes below 8, and the others as their negations. -/
theorem conditionMeanings : Obligations.ConditionMeanings := by
  refine ⟨fun w a b f => ?_, fun k f => condOn_add_eight k f.c f.z f.s f.pv, fun f => ⟨rfl, rfl, rfl, rfl, rfl⟩⟩
  have lt := cond_lt_cpFlags w a b f
  have le := cond_le_cpFlags w a b f
  have ult := cond_ult_cpFlags w a b f
  have ule := cond_ule_cpFlags w a b f
  have eq := cond_eq_cpFlags w a b f
  exact ⟨lt, le, cond_add_eight (k := 1) lt Int.not_lt, cond_add_eight (k := 2) le Int.not_le, ult, ule,
    cond_add_eight (k := 7) ult Nat.not_lt, cond_add_eight (k := 3) ule Nat.not_le, eq,
    cond_add_eight (k := 6) eq Iff.rfl⟩

/- What an instruction leaves when it goes on to an address of its own. -/

section
variable {g : Guard} {rs : List Reg} {bs : List Addr} {es : List IoEvent} {s t : State}

theorem OnlyChanges.jumped (h : OnlyChanges g rs bs es s t) (a : Addr) : OnlyChanges g rs bs es s (jumpTo a t) :=
  ⟨h.words, h.normalBank, h.systemBank, h.memory, h.look, h.trace, h.psap, h.refresh, h.halted, h.mo, h.nmiPending,
    h.requests, h.environment⟩

/-- An instruction that reaches `t` and then goes to `target` has the effect that `t` shows. -/
theorem effect_of_jumpTo {i : Instr} {target : Addr} {flags : Fcw → Fcw} {holds : State → Prop}
    (run : exec i s = .next (jumpTo target t)) (fcw : t.fcw = flags t.fcw)
    (frame : OnlyChanges (guardOf i s) rs bs es s t) (result : holds (jumpTo target t)) :
    Effect i s target flags rs bs es holds :=
  ⟨jumpTo target t, run, rfl, fcw, result, frame.jumped target⟩

end

@[simp] theorem peek_jumpTo (w : Width) (a target : Addr) (s : State) : peek w a (jumpTo target s) = peek w a s :=
  peek_congr w a fun _ _ => rfl

@[simp] theorem peek_spend (w : Width) (a : Addr) (n : Nat) (s : State) : peek w a (spend n s) = peek w a s :=
  peek_congr w a fun _ _ => rfl

@[simp] theorem holdsReg_jumpTo {w : Width} {d : Reg} {v : BitVec w.bits} {target : Addr} {s t : State} :
    HoldsReg w d v s (jumpTo target t) ↔ HoldsReg w d v s t := by simp [HoldsReg]

/- Jumps (44_program_control.md R224 to R226). -/

/-- The displacement in bytes of a relative jump is twice the signed field (R223, R226). -/
theorem two_mul_signExtend {n : Nat} (p : BitVec n) : 2#16 * p.signExtend 16 = BitVec.ofInt 16 (2 * p.toInt) :=
  (BitVec.ofInt_mul 2 p.toInt).symm

/-- A jump that is taken or not. -/
theorem branch_effect {i : Instr} {n : Nat} {s : State} {taken : Bool} {target : Addr} (len : (encode i).length = n)
    (run : exec i s = .next (if taken then jumpTo target s else advance n s)) :
    JumpEffect i s (if taken then target else after i s) := by
  cases taken with
  | true => exact effect_of_jumpTo run rfl (.refl _ s) trivial
  | false => exact effect_of_advance len run rfl rfl (.refl _ s) trivial

/-- The count is written in both cases; only the address jumped to differs (R224). -/
theorem countAndJump_eq (w : Width) (r : Reg) (p : BitVec 7) (s : State) :
    countAndJump w r p s =
      jumpTo (if readReg w r s - 1 = 0 then nextPc 1 s else offsetBy (nextPc 1 s) (-(2 * p.setWidth 16)))
        (writeReg w r (readReg w r s - 1) s) := by
  have onward : nextPc 1 (writeReg w r (readReg w r s - 1) s) = nextPc 1 s := by rw [nextPc, writeReg_pc, nextPc]
  by_cases zero : readReg w r s - 1 = 0
  · rw [if_pos zero, ← onward]
    exact if_pos zero
  · rw [if_neg zero]
    exact if_neg zero

theorem countJump_spec {w : Width} {mk : Reg → BitVec 7 → Instr} (len : ∀ r p, (encode (mk r p)).length = 1)
    (run : ∀ r p s, exec (mk r p) s = .next (countAndJump w r p s)) : CountJumpSpec w mk := by
  intro s r p v
  rw [after_eq (len r p)]
  exact effect_of_jumpTo ((run r p s).trans (congrArg _ (countAndJump_eq w r p s))) (writeReg_fcw ..)
    (frame_writeReg ..) (holdsReg_jumpTo.mpr (holdsReg_writeReg w r v s))

/-- Settles O40: each jump goes to one of two addresses, after the count is written or after nothing. -/
theorem jumpResults : Obligations.JumpResults := by
  refine ⟨fun s cc m => branch_effect (encodeMem_length _ m _) rfl, fun s cc p => ?_, ?_, ?_⟩
  · rw [← two_mul_signExtend, after_eq (n := 1) rfl]
    exact branch_effect rfl rfl
  · exact countJump_spec (fun _ _ => rfl) fun _ _ _ => rfl
  · exact countJump_spec (fun _ _ => rfl) fun _ _ _ => rfl

/- CALL and RET (44_program_control.md R222, R223, R227). -/

/-- The return address goes below the stack pointer, whose offset goes down by four (R222). -/
theorem callTo_effect {i : Instr} {n : Nat} {target : Addr} {s : State} (len : (encode i).length = n)
    (run : exec i s = callTo n target s) : CallEffect i s target := by
  intro ready
  have top : pointer 14#4 (stepPointer 14#4 (-4#16) s) = offsetBy (addressIn 14 s) (-4) := by
    rw [pointer_stepPointer, pointer_eq_addressIn]; rfl
  obtain ⟨u, stored⟩ : ∃ u, store (guardOf i s) .long (offsetBy (addressIn 14 s) (-4)) (longOf (nextPc n s) (draw 0 s))
      (stepPointer 14#4 (-4#16) s) = .next u :=
    ⟨_, store_of_canWrite _ _ ((canWrite_congr (stepPointer_map ..)).trans ready)⟩
  obtain ⟨_, fcw⟩ := store_keeps stored
  have frame := (frame_stepPointer _ 14#4 (-4#16) s).trans (frame_store stored) (by rw [stepPointer_fcw])
  refine effect_of_jumpTo (t := spend 1 u) (run.trans ?_) ?_ (frame.spent 1) ⟨?_, ?_⟩
  · rw [callTo, top, ← guardOf_eq len, stored, andThen_next]
  · rw [spend_fcw, fcw, stepPointer_fcw]
  · rw [peek_jumpTo, peek_spend, peek_store_same stored, addrOf_longOf, after_eq len]
  · calc readWord 15 u = readWord 15 (stepPointer 14#4 (-4#16) s) := (frame_store stored).words 15 List.not_mem_nil
      _ = readWord 15 s - 4 := by simp [readWord_stepPointer, BitVec.sub_eq_add_neg]

/-- Settles O41: both forms push and jump; they differ in the address jumped to. -/
theorem callResults : Obligations.CallResults := by
  refine ⟨fun s m => callTo_effect (encodeMem_length _ m _) rfl, fun s p => ?_⟩
  rw [BitVec.ofInt_neg, ← two_mul_signExtend, after_eq (n := 1) rfl]
  exact callTo_effect rfl rfl

/-- A call that completes has stored its return address. -/
theorem canWrite_of_callTo_next {n : Nat} {target : Addr} {s t : State} (h : callTo n target s = .next t) :
    canWrite .long (offsetBy (addressIn 14 s) (-4)) s = true := by
  obtain ⟨u, stored, _⟩ := callTo_next h
  obtain ⟨lined, answered, _⟩ := store_next stored
  rw [← canWrite_congr (stepPointer_map 14#4 (-4#16) s), canWrite, ← pointer_eq_addressIn]
  exact Bool.and_eq_true_iff.mpr ⟨lined, answered⟩

theorem ret_taken_effect {s : State} {cc : CC} (taken : Machine.cond cc s.fcw = true)
    (ready : canRead .long (addressIn 14 s) s = true) :
    Effect (.ret cc) s (addrOf (peek .long (addressIn 14 s) s)) (fun _ => s.fcw) [15] [] []
      fun t => readWord 15 t = readWord 15 s + 4 := by
  have popped : load .long (pointer 14#4 s) s = .next (peek .long (addressIn 14 s) s) := by
    rw [pointer_eq_addressIn]; exact load_of_canRead ready
  refine effect_of_jumpTo (t := stepPointer 14#4 4#16 s) ?_ ?_ (frame_stepPointer _ 14#4 4#16 s) ?_
  · show execRet cc s = _
    rw [execRet, if_pos taken, popReturn, popped, andThen_next]
  · simp
  · simp [readWord_stepPointer]

/-- RET takes back what a call has pushed: the stack pointer is where it was, the PC behind the call (R222, R227). -/
theorem ret_undoes_call {i : Instr} {target : Addr} {s t : State} (call : CallEffect i s target)
    (ready : canWrite .long (offsetBy (addressIn 14 s) (-4)) s = true) (run : exec i s = .next t) :
    ∃ u, exec (.ret .always) t = .next u ∧ u.pc = after i s ∧ ∀ r, readWord r u = readWord r s := by
  obtain ⟨t', run', _, _, ⟨pushed, down⟩, frame⟩ := call ready
  cases run'.symm.trans run
  have top : addressIn 14 t = offsetBy (addressIn 14 s) (-4) := by
    have segment : readWord 14 t = readWord 14 s := frame.words 14 (by decide)
    have offset : readWord (14 + 1) t = readWord (14 + 1) s + -4 := down.trans (BitVec.sub_eq_add_neg ..)
    rw [addressIn, addressIn, offsetBy, segment, offset]
  have readable : canRead .long (addressIn 14 t) t = true := by
    obtain ⟨_, _, map⟩ := frame.environment
    rw [top, canRead_congr map]
    exact canRead_of_canWrite ready
  obtain ⟨u, returned, pc, _, up, frame'⟩ := ret_taken_effect (cc := .always) rfl readable
  refine ⟨u, returned, ?_, fun r => ?_⟩
  · rw [pc, top, pushed]
  · by_cases h : r = 15
    · rw [h, up, down, BitVec.sub_add_cancel]
    · have other : r ∉ [15] := by simpa using h
      rw [frame'.words r other, frame.words r other]

/-- Settles O42: RET not taken and taken, and RET after CALL. -/
theorem returnResults : Obligations.ReturnResults := by
  refine ⟨fun s cc untaken => ?_, fun s cc => ret_taken_effect, fun s t m run => ?_⟩
  · refine effect_of_advance (n := 1) rfl ?_ rfl rfl (.refl _ s) trivial
    show execRet cc s = _
    rw [execRet, untaken]
    rfl
  · exact ret_undoes_call (callResults.1 s m) (canWrite_of_callTo_next run) run

end Sys2Proof
end

section
/-! PROOFS. The block transfer, string compare and translate instructions (45_block_string.md R235 to R256): one
iteration of each, and when it is refused; and the words that the spec writes out. -/

namespace Sys2Proof

open Machine

/-- Settles O3: the decoder runs on each of the words. -/
theorem decodesSpecWords : Obligations.DecodesSpecWords :=
  ⟨rfl, rfl, rfl, rfl, rfl, rfl, rfl, rfl, rfl, rfl, rfl, rfl⟩

/- The check on the registers (45_block_string.md R235). -/

theorem pairwiseDisjoint_iff (regs : List (List Reg)) : pairwiseDisjoint regs = true ↔ NoOverlap regs := by
  induction regs with
  | nil => exact iff_of_true rfl List.Pairwise.nil
  | cons xs rest ih =>
    rw [NoOverlap, List.pairwise_cons, ← NoOverlap, ← ih]
    simp [pairwiseDisjoint, disjoint_iff]

section
variable {α : Type} {regs : List (List Reg)} {why body : α}

theorem ite_overlap (overlap : ¬ NoOverlap regs) : (if pairwiseDisjoint regs = false then why else body) = why :=
  if_pos (Bool.eq_false_iff.mpr (mt (pairwiseDisjoint_iff regs).mp overlap))

theorem ite_noOverlap (apart : NoOverlap regs) : (if pairwiseDisjoint regs = false then why else body) = body :=
  if_neg (Bool.eq_false_iff.not_left.mpr ((pairwiseDisjoint_iff regs).mpr apart))

end

/-- Registers of two lists that the check compares are different. -/
theorem NoOverlap.ne {xs ys : List Reg} {rest : List (List Reg)} (apart : NoOverlap (xs :: rest)) (list : ys ∈ rest)
    {q r : Reg} (hq : q ∈ xs) (hr : r ∈ ys) : q ≠ r := by
  rintro rfl
  exact (List.pairwise_cons.mp apart).1 ys list q hq hr

theorem NoOverlap.tail {xs : List Reg} {rest : List (List Reg)} (apart : NoOverlap (xs :: rest)) : NoOverlap rest :=
  (List.pairwise_cons.mp apart).2

/- The parts of an iteration (45_block_string.md R235, R236). -/

theorem countEnds_eq (r : Reg) (s : State) : countEnds r s = decide (readWord r s = 1) :=
  decide_eq_decide.mpr sub_eq_zero

theorem readWord_countDown (q r : Reg) (s : State) :
    readWord q (countDown r s) = if q = r then readWord q s - 1 else readWord q s := by
  rw [countDown, readWord_writeWord]
  split
  · next h => rw [h]; rfl
  · rfl

@[simp] theorem countDown_fcw (r : Reg) (s : State) : (countDown r s).fcw = s.fcw := writeReg_fcw .word r _ s

@[simp] theorem countDown_pc (r : Reg) (s : State) : (countDown r s).pc = s.pc := writeReg_pc .word r _ s

@[simp] theorem byteAt_countDown (r : Reg) (s : State) (a : Addr) : byteAt (countDown r s) a = byteAt s a :=
  byteAt_writeReg .word r _ s a

@[simp] theorem byteAt_writeByte (k : Reg) (v : Byte) (s : State) (a : Addr) :
    byteAt (writeByte k v s) a = byteAt s a := byteAt_writeReg .byte k v s a

theorem frame_countDown (g : Guard) (r : Reg) (s : State) : OnlyChanges g [r] [] [] s (countDown r s) :=
  frame_writeWord g r _ s

/-- The end of an iteration chooses the PC only. -/
theorem endIteration_eq (rep done : Bool) (s : State) :
    endIteration rep done s = jumpTo (if rep && !done then s.pc else nextPc 2 s) s := by
  rw [endIteration]
  split <;> rfl

theorem iterationPc_eq {i : Instr} (len : (encode i).length = 2) (rep done : Bool) (s : State) :
    iterationPc rep done i s = if rep && !done then s.pc else nextPc 2 s := by
  rw [iterationPc, after_eq len]
  cases rep <;> cases done <;> rfl

theorem iterationGuard_eq {i : Instr} (len : (encode i).length = 2) (rep : Bool) (s : State) :
    iterationGuard rep i s = blockGuard rep s := by
  rw [iterationGuard, blockGuard, guardOf_eq len, Guard.repeating, Instr.bytes, len]

/-- Registers that change after bytes were stored. -/
theorem OnlyChanges.thenRegs {g : Guard} {rs qs : List Reg} {bs : List Addr} {es : List IoEvent} {s t u : State}
    (h : OnlyChanges g rs bs es s t) (k : OnlyChanges g qs [] [] t u) (mode : t.fcw.sn = s.fcw.sn) :
    OnlyChanges g (rs ++ qs) bs es s u := by
  simpa using h.trans k mode

/-- A byte register depends on its word register only (10_state.md R22). -/
theorem readByte_congr {k : Reg} {s t : State} (word : readWord (byteHome k) t = readWord (byteHome k) s) :
    readByte k t = readByte k s := by
  rw [readByte_eq, readByte_eq, word]

/-- An iteration that has moved its data and registers in `u`, and then writes FCW and ends, has the effect that `u`
shows. -/
theorem blockEffect_of_endIteration {rep done : Bool} {i : Instr} {s u : State} {r : Reg} {f : Fcw} {k : Nat}
    {flags : Fcw → Fcw} {regs : List Reg} {bytes : List Addr} {events : List IoEvent} {holds : State → Prop}
    (len : (encode i).length = 2)
    (run : exec i s = .next (endIteration rep (done || countEnds r s) (spend k (setFcw f u))))
    (pc : u.pc = s.pc) (mode : f.sn = u.fcw.sn) (fcw : f = { flags f with pv := countEnds r s })
    (count : readWord r u = readWord r s - 1) (frame : OnlyChanges (blockGuard rep s) (r :: regs) bytes events s u)
    (result : ∀ t, (∀ q, readWord q t = readWord q u) → (∀ a, byteAt t a = byteAt u a) → holds t) :
    BlockEffect rep i s r done flags regs bytes events holds := by
  rw [endIteration_eq] at run
  have words : ∀ q, readWord q (setFcw f u) = readWord q u := fun q => readWord_setFcw q f u mode
  refine ⟨_, run, ?_, ?_, (words r).trans count, result _ words fun _ => rfl, ?_⟩
  · rw [iterationPc_eq len, ← countEnds_eq, nextPc, nextPc, jumpTo_pc, spend_pc, setFcw_pc, pc]
  · rw [← countEnds_eq]
    exact fcw
  · rw [iterationGuard_eq len]
    exact ((frame.flagsSet mode).spent k).jumped _

/- One pointer stepped and the count taken down (45_block_string.md R235). -/

section
variable {p r : Reg} {k : Word} {s u : State}

theorem readWord_stepPointer_same : readWord (p + 1) (stepPointer p k u) = readWord (p + 1) u + k :=
  (readWord_stepPointer ..).trans (if_pos rfl)

theorem readWord_stepPointer_ne {q : Reg} (h : q ≠ p + 1) : readWord q (stepPointer p k u) = readWord q u :=
  (readWord_stepPointer ..).trans (if_neg h)

theorem readWord_pointerStepped (apart : p + 1 ≠ r) :
    readWord r (countDown r (stepPointer p k u)) = readWord r u - 1 ∧
    readWord (p + 1) (countDown r (stepPointer p k u)) = readWord (p + 1) u + k ∧
    ∀ q, q ≠ r → q ≠ p + 1 → readWord q (countDown r (stepPointer p k u)) = readWord q u := by
  refine ⟨?_, ?_, fun q count pointer => ?_⟩
  · rw [readWord_countDown, if_pos rfl, readWord_stepPointer_ne apart.symm]
  · rw [readWord_countDown, if_neg apart, readWord_stepPointer_same]
  · rw [readWord_countDown, if_neg count, readWord_stepPointer_ne pointer]

theorem OnlyChanges.pointerStepped {g : Guard} {rs : List Reg} {bs : List Addr} {es : List IoEvent}
    (h : OnlyChanges g rs bs es s u) (mode : u.fcw.sn = s.fcw.sn) :
    OnlyChanges g (r :: (p + 1) :: rs) bs es s (countDown r (stepPointer p k u)) := by
  refine ((h.thenRegs (frame_stepPointer g p k u) mode).thenRegs (frame_countDown g r _) (by simpa using mode)).mono ?_
  simp only [List.mem_append, List.mem_cons]
  tauto

end

/- Compares (45_block_string.md R237 to R244). -/

/-- The condition of a block compare is the condition after CP of the two values (R237). -/
theorem condOn_subW (cc : CC) (w : Width) (a b : BitVec w.bits) (f : Fcw) :
    condOn cc (subW a b false).c (subW a b false).z (subW a b false).s (subW a b false).v =
      Machine.cond cc (cpFlags w a b false f) := by
  rw [← setCZSV_subW]; rfl

theorem compareBlock_spec {w : Width} {up rep : Bool} {mk : Reg → Reg → Reg → CC → Instr}
    (len : ∀ d p r cc, (encode (mk d p r cc)).length = 2)
    (run : ∀ d p r cc s, exec (mk d p r cc) s = compareBlock w up rep d p r cc s) : CompareBlockSpec w up rep mk := by
  refine fun s d p r cc => ⟨fun overlap => (run d p r cc s).trans (ite_overlap overlap), fun apart ready => ?_⟩
  intro hit
  have differ : p + 1 ≠ r := apart.ne (ys := [r]) (by simp) (by simp) (by simp)
  obtain ⟨count, source, _⟩ := readWord_pointerStepped (k := blockStep w up) (u := s) differ
  refine blockEffect_of_endIteration (k := 2) (f := compareFlags hit (countEnds r s) s) (len d p r cc)
    ((run d p r cc s).trans ((ite_noOverlap apart).trans ?_)) (by simp) (by simp [compareFlags]) rfl count
    ((OnlyChanges.refl ..).pointerStepped rfl) fun t words _ => (words _).trans source
  rw [pointer_eq_addressIn, load_of_canRead ready, andThen_next]
  simp only [condOn_subW _ _ _ _ s.fcw, hit]

/-- Settles O43: one iteration for each width, direction and repetition. -/
theorem blockCompareResults : Obligations.BlockCompareResults := by
  refine ⟨?_, ?_, ?_, ?_, ?_, ?_, ?_, ?_⟩ <;> exact compareBlock_spec (fun _ _ _ _ => rfl) fun _ _ _ _ _ => rfl

/-- Both pointers and the count of the string compares and the moves (R241, R245). -/
theorem readWord_pointersStepped {d p r : Reg} {k : Word} {s u : State}
    (apart : NoOverlap [[d, d + 1], [p, p + 1], [r]]) (same : ∀ q, readWord q u = readWord q s) :
    readWord r (countDown r (stepPointer p k (stepPointer d k u))) = readWord r s - 1 ∧
    readWord (d + 1) (countDown r (stepPointer p k (stepPointer d k u))) = readWord (d + 1) s + k ∧
    readWord (p + 1) (countDown r (stepPointer p k (stepPointer d k u))) = readWord (p + 1) s + k := by
  have hdp : d + 1 ≠ p + 1 := apart.ne (ys := [p, p + 1]) (by simp) (by simp) (by simp)
  have hdr : d + 1 ≠ r := apart.ne (ys := [r]) (by simp) (by simp) (by simp)
  have hpr : p + 1 ≠ r := apart.tail.ne (ys := [r]) (by simp) (by simp) (by simp)
  obtain ⟨count, source, others⟩ := readWord_pointerStepped (k := k) (u := stepPointer d k u) hpr
  refine ⟨count.trans ?_, (others _ hdr hdp).trans ?_, source.trans ?_⟩
  · rw [readWord_stepPointer_ne hdr.symm, same]
  · rw [readWord_stepPointer_same, same]
  · rw [readWord_stepPointer_ne hdp.symm, same]

theorem OnlyChanges.pointersStepped {g : Guard} {d p r : Reg} {k : Word} {bs : List Addr} {es : List IoEvent}
    {s u : State} (h : OnlyChanges g [] bs es s u) (mode : u.fcw.sn = s.fcw.sn) :
    OnlyChanges g [r, d + 1, p + 1] bs es s (countDown r (stepPointer p k (stepPointer d k u))) :=
  ((h.thenRegs (frame_stepPointer g d k u) mode).pointerStepped (by simpa using mode)).mono (by simp)

theorem compareStrings_spec {w : Width} {up rep : Bool} {mk : Reg → Reg → Reg → CC → Instr}
    (len : ∀ d p r cc, (encode (mk d p r cc)).length = 2)
    (run : ∀ d p r cc s, exec (mk d p r cc) s = compareStrings w up rep d p r cc s) :
    CompareStringsSpec w up rep mk := by
  refine fun s d p r cc => ⟨fun overlap => (run d p r cc s).trans (ite_overlap overlap), fun apart left right => ?_⟩
  intro hit
  obtain ⟨count, destination, source⟩ :=
    readWord_pointersStepped (k := blockStep w up) (u := s) apart fun _ => rfl
  refine blockEffect_of_endIteration (k := 2) (f := compareFlags hit (countEnds r s) s) (len d p r cc)
    ((run d p r cc s).trans ((ite_noOverlap apart).trans ?_)) (by simp) (by simp [compareFlags]) rfl count
    ((OnlyChanges.refl ..).pointersStepped rfl) fun t words _ => ⟨(words _).trans destination, (words _).trans source⟩
  rw [pointer_eq_addressIn, pointer_eq_addressIn, load_of_canRead left, andThen_next, load_of_canRead right,
    andThen_next]
  simp only [condOn_subW _ _ _ _ s.fcw, hit]

/-- Settles O44: one iteration for each width, direction and repetition. -/
theorem stringCompareResults : Obligations.StringCompareResults := by
  refine ⟨?_, ?_, ?_, ?_, ?_, ?_, ?_, ?_⟩ <;> exact compareStrings_spec (fun _ _ _ _ => rfl) fun _ _ _ _ _ => rfl

/- Moves (45_block_string.md R245 to R248). -/

theorem moveBlock_spec {w : Width} {up rep : Bool} {mk : Reg → Reg → Reg → Instr}
    (len : ∀ d p r, (encode (mk d p r)).length = 2)
    (run : ∀ d p r s, exec (mk d p r) s = moveBlock w up rep d p r s) : MoveSpec w up rep mk := by
  refine fun s d p r => ⟨fun overlap => (run d p r s).trans (ite_overlap overlap), fun apart writable readable => ?_⟩
  obtain ⟨u, stored⟩ : ∃ u, store (blockGuard rep s) w (addressIn d s) (peek w (addressIn p s) s) s = .next u :=
    ⟨_, store_of_canWrite _ _ writable⟩
  obtain ⟨pc, fcw⟩ := store_keeps stored
  have frame := frame_store stored
  obtain ⟨count, destination, source⟩ :=
    readWord_pointersStepped (k := blockStep w up) apart fun q => frame.words q List.not_mem_nil
  refine blockEffect_of_endIteration (k := 1) (f := (s.fcw.setZ (drawBit 0 s)).setPV (countEnds r s)) (len d p r)
    ((run d p r s).trans ((ite_noOverlap apart).trans ?_)) (by simpa using pc) (by simp [fcw]) rfl count
    (frame.pointersStepped (by rw [fcw])) fun t words bytes =>
      ⟨?_, (words _).trans destination, (words _).trans source⟩
  · rw [pointer_eq_addressIn, pointer_eq_addressIn, load_of_canRead readable, andThen_next, stored, andThen_next,
      Bool.false_or]
  · calc peek w (addressIn d s) t = peek w (addressIn d s) u := peek_congr w _ fun a _ => by simp [bytes]
      _ = peek w (addressIn p s) s := peek_store_same stored

/-- Settles O45: one iteration for each width, direction and repetition. -/
theorem blockMoveResults : Obligations.BlockMoveResults := by
  refine ⟨?_, ?_, ?_, ?_, ?_, ?_, ?_, ?_⟩ <;> exact moveBlock_spec (fun _ _ _ => rfl) fun _ _ _ _ => rfl

/- Translations (45_block_string.md R249 to R256). RH1 and RL1 are the byte registers 1 and 9. -/

/-- The registers that a translation writes are different. -/
theorem NoOverlap.translation {d p r : Reg} (apart : NoOverlap [[d, d + 1], [p, p + 1], [r], [1]]) :
    d + 1 ≠ r ∧ 1 ≠ r ∧ 1 ≠ d + 1 :=
  ⟨apart.ne (ys := [r]) (by simp) (by simp) (by simp),
    (apart.tail.tail.ne (ys := [1]) (by simp) (by simp) (by simp)).symm,
    (apart.ne (ys := [1]) (by simp) (by simp) (by simp)).symm⟩

theorem readWord_writeRH1 {q : Reg} {v : Byte} {s : State} (h : 1 ≠ q) :
    readWord q (writeByte 1#4 v s) = readWord q s := readWord_writeByte q 1#4 v s h.symm

/-- The byte is loaded and then its table entry (R249, R253). -/
theorem load_tableEntry {α : Type} {d p : Reg} {s : State} (byte : canRead .byte (addressIn d s) s = true)
    (entry : canRead .byte (tableEntry d p s) s = true) (body : Byte → Res α) :
    ((load .byte (pointer d s) s).andThen fun b =>
      (load .byte (offsetBy (pointer p s) (BitVec.setWidth 16 b)) s).andThen body) =
      body (byteAt s (tableEntry d p s)) := by
  rw [pointer_eq_addressIn, pointer_eq_addressIn, load_of_canRead byte, andThen_next]
  exact congrArg (·.andThen body) (load_of_canRead entry)

/-- RH1 is written after the count and the pointer (R249 to R252). -/
theorem translate_spec {up rep : Bool} {mk : Reg → Reg → Reg → Instr}
    (len : ∀ d p r, (encode (mk d p r)).length = 2)
    (run : ∀ d p r s, exec (mk d p r) s = translate up rep d p r s) : TranslateSpec up rep mk := by
  refine fun s d p r => ⟨fun overlap => (run d p r s).trans (ite_overlap overlap), fun apart writable entry => ?_⟩
  obtain ⟨hdr, h1r, h1d⟩ := apart.translation
  obtain ⟨u, stored⟩ : ∃ u, store (blockGuard rep s) .byte (addressIn d s) (byteAt s (tableEntry d p s)) s = .next u :=
    ⟨_, store_of_canWrite _ _ writable⟩
  obtain ⟨pc, fcw⟩ := store_keeps stored
  have frame := frame_store stored
  have same : ∀ q, readWord q u = readWord q s := fun q => frame.words q List.not_mem_nil
  obtain ⟨count, pointer, others⟩ := readWord_pointerStepped (k := blockStep .byte up) (u := u) hdr
  refine blockEffect_of_endIteration (k := 2) (f := (s.fcw.setZ (drawBit 0 s)).setPV (countEnds r s))
    (u := writeByte 1#4 ((draw 1 s).extractLsb' 0 8) (countDown r (stepPointer d (blockStep .byte up) u))) (len d p r)
    ((run d p r s).trans ((ite_noOverlap apart).trans ?_)) (by simpa using pc) (by simp [fcw]) rfl ?_ ?_
    fun t words bytes => ⟨?_, ?_, ?_⟩
  · rw [load_tableEntry (canRead_of_canWrite writable) entry, pointer_eq_addressIn, stored, andThen_next, Bool.false_or]
  · rw [readWord_writeRH1 h1r, count, same]
  · exact (frame.pointerStepped (by rw [fcw])).thenRegs (frame_writeByte _ 1#4 _ _) (by simp [fcw])
  · calc byteAt t (addressIn d s) = byteAt u (addressIn d s) := by simp [bytes]
      _ = byteAt s (tableEntry d p s) := peek_store_same stored
  · calc readByte 9 t = readByte 9 (countDown r (stepPointer d (blockStep .byte up) u)) :=
          (readByte_congr (words _)).trans (readByte_writeReg 9 1#4 _ _ (by decide))
      _ = readByte 9 s := readByte_congr ((others 1 h1r h1d).trans (same 1))
  · rw [words, readWord_writeRH1 h1d, pointer, same]; rfl

/-- RH1 is written before the pointer and the count (R253 to R256). -/
theorem translateTest_spec {up rep : Bool} {mk : Reg → Reg → Reg → Instr}
    (len : ∀ d p r, (encode (mk d p r)).length = 2)
    (run : ∀ d p r s, exec (mk d p r) s = translateTest up rep d p r s) : TranslateTestSpec up rep mk := by
  refine fun s d p r => ⟨fun overlap => (run d p r s).trans (ite_overlap overlap), fun apart readable entry => ?_⟩
  intro e
  obtain ⟨hdr, h1r, h1d⟩ := apart.translation
  obtain ⟨count, pointer, others⟩ := readWord_pointerStepped (k := blockStep .byte up) (u := writeByte 1#4 e s) hdr
  refine blockEffect_of_endIteration (k := 0) (f := (s.fcw.setZ (decide (e = 0))).setPV (countEnds r s))
    (u := countDown r (stepPointer d (blockStep .byte up) (writeByte 1#4 e s))) (len d p r)
    ((run d p r s).trans ((ite_noOverlap apart).trans ?_)) (by simp) (by simp) rfl ?_ ?_
    fun t words _ => ⟨?_, ?_, ?_⟩
  · rw [load_tableEntry readable entry, decide_not]; rfl
  · rw [count, readWord_writeRH1 h1r]
  · exact (frame_writeByte _ 1#4 e s).pointerStepped (by simp)
  · calc readByte 1 t = readByte 1 (writeByte 1#4 e s) := readByte_congr ((words 1).trans (others 1 h1r h1d))
      _ = e := readByte_writeByte_same 1 e s
  · calc readByte 9 t = readByte 9 (writeByte 1#4 e s) := readByte_congr ((words 1).trans (others 1 h1r h1d))
      _ = readByte 9 s := readByte_writeReg 9 1#4 e s (by decide)
  · rw [words, pointer, readWord_writeRH1 h1d]; rfl

/-- Settles O46: one iteration for each kind, direction and repetition. -/
theorem translateResults : Obligations.TranslateResults := by
  refine ⟨?_, ?_, ?_, ?_, ?_, ?_, ?_, ?_⟩
  case refine_1 | refine_2 | refine_3 | refine_4 => exact translate_spec (fun _ _ _ => rfl) fun _ _ _ _ => rfl
  all_goals exact translateTest_spec (fun _ _ _ => rfl) fun _ _ _ _ => rfl

end Sys2Proof
end

section
/-! PROOFS. Input and output in system mode (46_input_output.md R266 to R276): the values at the ports, the events in
the trace, and one iteration of each block form. -/

namespace Sys2Proof

open Machine

/-- In system mode a privileged instruction runs its own action (46_input_output.md R265). -/
theorem exec_of_systemMode {i : Instr} {s : State} {body : Res State} (mode : s.fcw.sn = true)
    (run : exec i s = privileged i s body) : exec i s = body :=
  run.trans (if_pos mode)

/- The transfers between a port and a register (46_input_output.md R267, R274). -/

section
variable {w : Width} {i : Instr} {n : Nat} {s : State} {sp : Space} {port : Word}

/-- The register receives the value that the port gives (R267). -/
theorem input_spec {d : Reg} (len : (encode i).length = n)
    (run : exec i s = privileged i s (inputReg w sp port d n s)) : InputSpec w i s sp port d := by
  refine fun mode => ⟨portValue sp port w s, ?_⟩
  refine effect_of_advance len (exec_of_systemMode mode run) (writeReg_pc ..) (writeReg_fcw ..)
    ((frame_ioRead ..).trans (frame_writeReg ..) rfl) (holdsReg_advance.mpr ?_)
  simpa [HoldsReg] using holdsReg_writeReg w d (portValue sp port w s) (ioRead sp port w s)

/-- The register is unchanged, and the trace has its value (R274). -/
theorem output_spec {r : Reg} (len : (encode i).length = n)
    (run : exec i s = privileged i s (outputReg w sp port r n s)) : OutputSpec w i s sp port r := fun mode =>
  effect_of_advance len (exec_of_systemMode mode run) rfl rfl (frame_ioWrite ..) trivial

end

/-- Settles O47: each form names a width, a space, a port and its number of words. -/
theorem portResults : Obligations.PortResults :=
  ⟨fun _ _ _ => ⟨input_spec rfl rfl, input_spec rfl rfl, output_spec rfl rfl, output_spec rfl rfl⟩,
    fun _ _ _ => ⟨input_spec rfl rfl, input_spec rfl rfl, input_spec rfl rfl, input_spec rfl rfl,
      output_spec rfl rfl, output_spec rfl rfl, output_spec rfl rfl, output_spec rfl rfl⟩⟩

/- The block forms (46_input_output.md R268 to R276). -/

section
variable {w : Width} {sp : Space} {up rep : Bool} {mk : Reg → Reg → Reg → Instr}

/-- The port is read, the value stored, then the pointer and the count move (R268 to R271). -/
theorem inputBlock_spec (len : ∀ d p r, (encode (mk d p r)).length = 2)
    (run : ∀ d p r s, exec (mk d p r) s = privileged (mk d p r) s (inputBlock w sp up rep d p r s)) :
    InputBlockSpec w sp up rep mk := by
  intro s d p r mode
  have ran := exec_of_systemMode mode (run d p r s)
  refine ⟨fun overlap => ran.trans (ite_overlap overlap), fun apart writable => ?_⟩
  have differ : d + 1 ≠ r := apart.ne (ys := [r]) (by simp) (by simp) (by simp)
  obtain ⟨u, stored⟩ : ∃ u, store (blockGuard rep s) w (addressIn d s) (portValue sp (readWord p s) w s)
      (ioRead sp (readWord p s) w s) = .next u :=
    ⟨_, store_of_canWrite _ _ ((canWrite_congr (ioRead_map ..)).trans writable)⟩
  obtain ⟨pc, fcw⟩ := store_keeps stored
  have frame := (frame_ioRead _ sp (readWord p s) w s).trans (frame_store stored) rfl
  have same : ∀ q, readWord q u = readWord q s := fun q => frame.words q List.not_mem_nil
  obtain ⟨count, pointer, _⟩ := readWord_pointerStepped (k := blockStep w up) (u := u) differ
  refine ⟨_, blockEffect_of_endIteration (k := 1) (f := (s.fcw.setZ (drawBit 0 s)).setPV (countEnds r s)) (len d p r)
    (ran.trans ((ite_noOverlap apart).trans ?_)) (by simpa using pc) (by simp [fcw]) rfl
    (count.trans (congrArg (· - 1) (same r))) (frame.pointerStepped (congrArg Fcw.sn fcw)) fun t words bytes =>
      ⟨?_, ?_⟩⟩
  · simp only [pointer_eq_addressIn, stored, andThen_next, Bool.false_or]
  · calc peek w (addressIn d s) t = peek w (addressIn d s) u := peek_congr w _ fun a _ => by simp [bytes]
      _ = portValue sp (readWord p s) w s := peek_store_same stored
  · rw [words, pointer, same]; rfl

/-- The element is read and written to the port, then the pointer and the count move (R272, R273, R275, R276). -/
theorem outputBlock_spec (len : ∀ d p r, (encode (mk d p r)).length = 2)
    (run : ∀ d p r s, exec (mk d p r) s = privileged (mk d p r) s (outputBlock w sp up rep d p r s)) :
    OutputBlockSpec w sp up rep mk := by
  intro s d p r mode
  have ran := exec_of_systemMode mode (run d p r s)
  refine ⟨fun overlap => ran.trans (ite_overlap overlap), fun apart readable => ?_⟩
  have differ : p + 1 ≠ r := apart.tail.ne (ys := [r]) (by simp) (by simp) (by simp)
  have frame := frame_ioWrite (blockGuard rep s) sp (readWord d s) w (peek w (addressIn p s) s) s
  obtain ⟨count, pointer, _⟩ := readWord_pointerStepped (k := blockStep w up)
    (u := ioWrite sp (readWord d s) w (peek w (addressIn p s) s) s) differ
  refine blockEffect_of_endIteration (k := 1) (f := (s.fcw.setZ (drawBit 0 s)).setPV (countEnds r s)) (len d p r)
    (ran.trans ((ite_noOverlap apart).trans ?_)) (by simp) (by simp) rfl count (frame.pointerStepped rfl)
    fun t words _ => (words _).trans pointer
  rw [pointer_eq_addressIn, load_of_canRead readable, andThen_next, Bool.false_or]

end

/-- Settles O48: one iteration for each width, space, direction and repetition. -/
theorem blockInputResults : Obligations.BlockInputResults := by
  refine ⟨?_, ?_, ?_, ?_, ?_, ?_, ?_, ?_, ?_, ?_, ?_, ?_, ?_, ?_, ?_, ?_⟩ <;>
    exact inputBlock_spec (fun _ _ _ => rfl) fun _ _ _ _ => rfl

/-- Settles O49: one iteration for each width, space, direction and repetition. -/
theorem blockOutputResults : Obligations.BlockOutputResults := by
  refine ⟨?_, ?_, ?_, ?_, ?_, ?_, ?_, ?_, ?_, ?_, ?_, ?_, ?_, ?_, ?_, ?_⟩ <;>
    exact outputBlock_spec (fun _ _ _ => rfl) fun _ _ _ _ => rfl

end Sys2Proof
end

section
/-! PROOFS. CPU control (47_cpu_control.md R290 to R309): the flag instructions, which run in both modes, and in system
mode the enables, HALT, the /Mi and /Mo lines, the control registers, and the two loads of a program status. -/

namespace Sys2Proof

open Machine

/- The flag instructions (47_cpu_control.md R291, R298, R306, R307, R309). -/

theorem flagSet_spec {op : Bool → Bool → Bool} {mk : BitVec 4 → Instr} (len : ∀ f, (encode (mk f)).length = 1)
    (run : ∀ f s, exec (mk f) s = .next (advance 1 (changeFlags op f s))) : FlagSetSpec op mk :=
  fun s f => flagEffect_of_flags (len f) (run f s) rfl rfl

/-- Settles O50: each instruction is a flag update, one register write, or nothing, and then goes on. -/
theorem flagInstructionResults : Obligations.FlagInstructionResults := by
  refine ⟨?_, ?_, ?_, fun s => ?_, fun s r => ?_, fun s d => ?_⟩
  case refine_1 | refine_2 | refine_3 => exact flagSet_spec (fun _ => rfl) fun _ _ => rfl
  case refine_4 => exact effect_of_advance (n := 1) rfl rfl rfl rfl (.refl _ s) trivial
  case refine_5 => exact flagEffect_of_flags (n := 1) (f := s.fcw.withFlags (readByte r s)) rfl rfl rfl rfl
  case refine_6 =>
    refine effect_of_advance (n := 1) rfl rfl ?_ ?_ ((frame_writeByte ..).spent 1) ?_
    · rw [spend_pc, writeByte_pc]
    · rw [spend_fcw, writeByte_fcw]
    · simp only [readByte_advance, readByte_spend, readByte_writeByte_same]
      obtain ⟨c, z, sign, pv, da, h⟩ := flags_bits s.fcw ((draw 0 s).extractLsb' 0 2)
      exact ⟨c, z, sign, pv, da, h, fun k hk => readByte_writeReg k d _ s hk⟩

/- What a privileged instruction leaves in system mode when it goes on to `next_pc`. -/

theorem advance_eq_after {i : Instr} {n : Nat} {s t : State} (len : (encode i).length = n) (pc : t.pc = s.pc) :
    advance n t = { t with pc := after i s } := by
  rw [after_eq len, advance, jumpTo, nextPc, nextPc, pc]

/-- The whole next state, when the action is the update `t`. -/
theorem exec_next_of_systemMode {i : Instr} {n : Nat} {s t : State} (len : (encode i).length = n)
    (mode : s.fcw.sn = true) (run : exec i s = privileged i s (.next (advance n t))) (pc : t.pc = s.pc) :
    exec i s = .next { t with pc := after i s } := by
  rw [exec_of_systemMode mode run, advance_eq_after len pc]

/- The enables and the latches (47_cpu_control.md R292 to R294, R304, R305). -/

theorem setEnables_off (vi nvi : Bool) (s : State) : setEnables false vi nvi s =
    setFcw { s.fcw with vie := s.fcw.vie && !vi, nvie := s.fcw.nvie && !nvi } s := by
  cases vi <;> cases nvi <;> simp [setEnables]

theorem setEnables_on (vi nvi : Bool) (s : State) : setEnables true vi nvi s =
    setFcw { s.fcw with vie := s.fcw.vie || vi, nvie := s.fcw.nvie || nvi } s := by
  cases vi <;> cases nvi <;> simp [setEnables]

/-- Settles O51: each instruction writes the fields it names, then the PC. -/
theorem systemControlResults : Obligations.SystemControlResults := by
  refine fun s mode => ⟨fun vi nvi => ?_, fun vi nvi => ?_, ?_, ?_, ?_⟩
  · rw [exec_next_of_systemMode (n := 1) (t := setEnables false vi nvi s) rfl mode rfl rfl, setEnables_off]; rfl
  · rw [exec_next_of_systemMode (n := 1) (t := setEnables true vi nvi s) rfl mode rfl rfl, setEnables_on]; rfl
  · exact exec_next_of_systemMode (n := 1) (t := { s with halted := true }) rfl mode rfl rfl
  · exact exec_next_of_systemMode (n := 1) (t := { s with mo := true }) rfl mode rfl rfl
  · exact exec_next_of_systemMode (n := 1) (t := { s with mo := false }) rfl mode rfl rfl

/- The /Mi pin and the /Mo latch (47_cpu_control.md R301 to R303). -/

/-- A flag update with `k` free values used. -/
theorem flagEffect_of_spent_flags {i : Instr} {n k : Nat} {s : State} {flags : Fcw → Fcw} {f : Fcw}
    (len : (encode i).length = n) (run : exec i s = .next (advance n (spend k (setFcw f s)))) (mode : f.sn = s.fcw.sn)
    (fcw : f = flags f) : FlagEffect i s flags :=
  effect_of_advance len run rfl fcw (((OnlyChanges.refl _ s).flagsSet mode).spent k) trivial

/-- With /Mi asserted no request is made. -/
theorem requestMulti_of_asserted {s : State} (d : Reg) (asserted : readMi 0 s = true) :
    requestMulti d s = spend 2 (setFcw { s.fcw with z := false, s := false } s) := by
  simp [requestMulti, asserted]

theorem writeWord_mo_comm (d : Reg) (v : Word) (m : Bool) (s : State) :
    { writeWord d v s with mo := m } = writeWord d v { s with mo := m } := by
  unfold writeWord
  (repeat' split) <;> rfl

/-- A request leaves in S and /Mo whether it was granted, and clears the register. -/
theorem requestMulti_of_free {s : State} (d : Reg) (free : readMi 0 s = false) :
    requestMulti d s = spend 2 (setFcw { s.fcw with z := true, s := readMi 1 s }
      (writeWord d 0#16 { s with mo := readMi 1 s })) := by
  rw [← writeWord_mo_comm]
  simp [requestMulti, free]

theorem mreq_asserted_effect {s : State} (d : Reg) (mode : s.fcw.sn = true) (asserted : readMi 0 s = true) :
    FlagEffect (.mreq d) s fun _ => { s.fcw with z := false, s := false } := by
  have run : exec (.mreq d) s = .next (advance 1 (requestMulti d s)) := exec_of_systemMode mode rfl
  rw [requestMulti_of_asserted d asserted] at run
  exact flagEffect_of_spent_flags rfl run rfl rfl

/-- The frame is of the state in which /Mo is already the second read of /Mi. -/
theorem mreq_free_effect {s : State} (d : Reg) (mode : s.fcw.sn = true) (free : readMi 0 s = false) :
    ∃ t, exec (.mreq d) s = .next t ∧ t.pc = after (.mreq d) s ∧
      t.fcw = { s.fcw with z := true, s := readMi 1 s } ∧ t.mo = readMi 1 s ∧ readWord d t = 0 ∧
      OnlyChanges (guardOf (.mreq d) s) [d] [] [] { s with mo := readMi 1 s } t := by
  have run : exec (.mreq d) s = .next (advance 1 (requestMulti d s)) := exec_of_systemMode mode rfl
  rw [requestMulti_of_free d free] at run
  generalize hf : { s.fcw with z := true, s := readMi 1 s } = f at run ⊢
  generalize hu : { s with mo := readMi 1 s } = u at run ⊢
  have same : f.sn = (writeWord d 0#16 u).fcw.sn := by rw [writeWord_fcw, ← hf, ← hu]
  refine ⟨_, run, ?_, rfl, ?_, ?_, (((frame_writeWord _ d _ u).flagsSet same).spent 2).advanced 1⟩
  · rw [after_eq (n := 1) rfl, advance_pc, nextPc, nextPc, spend_pc, setFcw_pc, writeWord_pc, ← hu]
  · rw [advance_mo, spend_mo, setFcw_mo, writeWord_mo, ← hu]
  · rw [readWord_advance, readWord_spend, readWord_setFcw d _ _ same, readWord_writeWord_same]
    rfl

/-- Settles O52: MBIT is a flag update; MREQ by the first read of /Mi. -/
theorem multiMicroResults : Obligations.MultiMicroResults := by
  refine fun s mode => ⟨?_, fun d => ?_⟩
  · exact flagEffect_of_spent_flags (n := 1) (f := (testMi s).fcw) rfl (exec_of_systemMode mode rfl) rfl rfl
  · by_cases first : Config.miPin s.draws = true
    · obtain ⟨t, run, pc, fcw, _, frame⟩ := mreq_asserted_effect d mode first
      exact ⟨t, run, pc, (if_pos first).mpr ⟨fcw, frame⟩⟩
    · obtain ⟨t, run, pc, rest⟩ := mreq_free_effect d mode (Bool.eq_false_iff.mpr first)
      exact ⟨t, run, pc, (if_neg first).mpr rest⟩

/- The control registers (47_cpu_control.md R297). -/

/-- What a control register reads as, its reserved bits free. -/
theorem readControl_holds (c : Ctl) (s : State) :
    match c with
    | .fcw => Fcw.ofWord (readControl c s) = s.fcw
    | .refresh => (readControl c s).extractLsb' 9 7 = s.refresh.extractLsb' 9 7
    | .psapseg => (readControl c s).extractLsb' 8 7 = s.psap.seg
    | .psapoff => readControl c s = s.psap.off
    | .nspseg => readControl c s = s.r14n
    | .nspoff => readControl c s = s.r15n := by
  cases c with
  | fcw => exact ofWord_toWord _ _
  | refresh => exact extract_append_hi (m := 7) (n := 9) _ _
  | psapseg => exact segmentWord_segment _ _
  | psapoff | nspseg | nspoff => rfl

theorem ldctlRead_effect {s : State} (r : Reg) (c : Ctl) (mode : s.fcw.sn = true) :
    Effect (.ldctlRead r c) s (after (.ldctlRead r c) s) (fun _ => s.fcw) [r] [] []
      fun t => readWord r t = readControl c s := by
  refine effect_of_advance (n := 1) (by cases c <;> rfl) (exec_of_systemMode mode rfl) ?_ ?_
    ((frame_writeWord ..).spent 1) ?_
  · rw [spend_pc, writeWord_pc]
  · rw [spend_fcw, writeWord_fcw]
  · rw [readWord_advance, readWord_spend, readWord_writeWord_same]

/-- A control register that is written to `t`. -/
theorem ldctlWrite_next {s t : State} {r : Reg} {c : Ctl} (mode : s.fcw.sn = true)
    (written : writeControl c (readWord r s) s = .next t) :
    exec (.ldctlWrite c r) s = .next { t with pc := after (.ldctlWrite c r) s } := by
  obtain ⟨_, pc, _⟩ := writeControl_next written
  rw [exec_of_systemMode mode rfl, written, andThen_next,
    advance_eq_after (i := .ldctlWrite c r) (by cases c <;> rfl) pc]

theorem writeFcw_of_seg {v : Word} (s : State) (seg : v.getLsbD 15 = true) :
    writeFcw v s = .next (setFcw (Fcw.ofWord v) s) := if_pos seg

theorem writeFcw_of_segZero {v : Word} (s : State) (seg : v.getLsbD 15 = false) :
    writeFcw v s = .refused .segZero := by
  rw [writeFcw, seg]
  rfl

/-- Settles O53: reads by what the register reads as, writes register by register. -/
theorem controlRegisterResults : Obligations.ControlRegisterResults := by
  refine fun s r mode => ⟨fun c => ?_, fun segZero => ?_, fun seg => ?_, ?_, ?_, ?_, ?_, ?_⟩
  · obtain ⟨t, run, pc, fcw, value, frame⟩ := ldctlRead_effect r c mode
    refine ⟨t, run, pc, fcw, ?_, frame⟩
    have holds := readControl_holds c s
    rw [← value] at holds
    cases c <;> exact holds
  · rw [exec_of_systemMode mode rfl, writeControl, writeFcw_of_segZero s segZero, andThen_refused]
  · exact ldctlWrite_next (c := .fcw) mode (writeFcw_of_seg s seg)
  · exact ldctlWrite_next (c := .refresh) mode rfl
  · exact ldctlWrite_next (c := .psapseg) mode rfl
  · exact ldctlWrite_next (c := .psapoff) mode rfl
  · exact ldctlWrite_next (c := .nspseg) mode rfl
  · exact ldctlWrite_next (c := .nspoff) mode rfl

/- The loads of a program status (47_cpu_control.md R296, R300). -/

/-- FCW and PC from the block at `a` in `s`, written to `t`. -/
def loadBlock (a : Addr) (s t : State) : Res State :=
  (load .word a s).andThen fun _ =>
  (load .word (offsetBy a 2) s).andThen fun f =>
  (load .long (offsetBy a 4) s).andThen fun p =>
  (writeFcw f t).andThen fun u =>
  .next (jumpTo (addrOf p) u)

theorem loadProgramStatus_eq (a : Addr) (s : State) : loadProgramStatus a s = loadBlock a s s := rfl

theorem returnFromTrap_eq (s : State) :
    returnFromTrap s = loadBlock (pointer 14#4 s) s (stepPointer 14#4 8#16 s) := rfl

theorem loadBlock_of_canRead {a : Addr} {s : State} (t : State) (id : canRead .word a s = true)
    (fcw : canRead .word (offsetBy a 2) s = true) (pc : canRead .long (offsetBy a 4) s = true) :
    loadBlock a s t = (writeFcw (peek .word (offsetBy a 2) s) t).andThen fun u =>
      .next (jumpTo (addrOf (peek .long (offsetBy a 4) s)) u) := by
  simp only [loadBlock, load_of_canRead id, load_of_canRead fcw, load_of_canRead pc, andThen_next]

theorem statusReady_iff {a : Addr} {s : State} : statusReady a s = true ↔
    canRead .word a s = true ∧ canRead .word (offsetBy a 2) s = true ∧ canRead .long (offsetBy a 4) s = true ∧
      (peek .word (offsetBy a 2) s).getLsbD 15 = true := by
  simp only [statusReady, Bool.and_eq_true, and_assoc]

theorem loadBlock_of_statusReady {a : Addr} {s : State} (t : State) (ready : statusReady a s = true) :
    loadBlock a s t = .next { t with
      fcw := Fcw.ofWord (peek .word (offsetBy a 2) s), pc := addrOf (peek .long (offsetBy a 4) s) } := by
  obtain ⟨id, fcw, pc, seg⟩ := statusReady_iff.mp ready
  rw [loadBlock_of_canRead t id fcw pc, writeFcw_of_seg t seg]
  rfl

theorem loadBlock_of_segZero {a : Addr} {s : State} (t : State) (id : canRead .word a s = true)
    (fcw : canRead .word (offsetBy a 2) s = true) (pc : canRead .long (offsetBy a 4) s = true)
    (segZero : (peek .word (offsetBy a 2) s).getLsbD 15 = false) : loadBlock a s t = .refused .segZero := by
  rw [loadBlock_of_canRead t id fcw pc, writeFcw_of_segZero t segZero, andThen_refused]

/-- In system mode R14 and R15 point to the system stack (10_state.md R24). -/
theorem pointer_systemStack {s : State} (mode : s.fcw.sn = true) : pointer 14#4 s = addrOf (s.r14s ++ s.r15s) := by
  obtain ⟨r14, r15⟩ := readWord_systemBank mode
  exact congrArg₂ (fun x y : Word => addrOf (x ++ y)) r14 r15

theorem stepPointer_systemStack {s : State} (k : Word) (mode : s.fcw.sn = true) :
    stepPointer 14#4 k s = { s with r15s := s.r15s + k } := by
  simp [stepPointer, writeWord, readWord, mode]

theorem iret_eq_loadBlock {s : State} (mode : s.fcw.sn = true) :
    exec .iret s = loadBlock (addrOf (s.r14s ++ s.r15s)) s { s with r15s := s.r15s + 8 } := by
  rw [exec_of_systemMode mode rfl, returnFromTrap_eq, pointer_systemStack mode, stepPointer_systemStack _ mode]
  rfl

theorem ldps_eq_loadBlock {s : State} (m : Mem) (mode : s.fcw.sn = true) :
    exec (.ldps m) s = loadBlock (memAddr m s) s s := exec_of_systemMode mode rfl

/-- Settles O54: both load the block at their address, IRET after the stack pointer has gone up. -/
theorem statusLoadResults : Obligations.StatusLoadResults := by
  refine fun s mode => ⟨?_, fun m => ?_⟩
  · rw [iret_eq_loadBlock mode]
    exact ⟨loadBlock_of_statusReady _, loadBlock_of_segZero _⟩
  · rw [ldps_eq_loadBlock m mode]
    exact ⟨loadBlock_of_statusReady _, loadBlock_of_segZero _⟩

end Sys2Proof
end

section
/-! PROOFS. Trap and interrupt entry (60_exceptions.md R330 to R336, R346, R347): when the frame can be pushed and the
entry goes through, the instructions that trap, and the return from the handler (R344). -/

namespace Sys2Proof.Machine

/- When the frame can be pushed (60_exceptions.md R330). -/

/-- The offsets of the words of a frame. -/
def frameOffsets : List Word := [0, 2, 4, 6]

theorem frameBytes_eq (s : State) :
    frameBytes s = frameOffsets.flatMap fun k => span .word (offsetBy (frameAt s) k) := by
  simp [frameOffsets, frameBytes]

/-- Each word of the frame can be written. -/
def FrameWritable (s : State) : Prop := ∀ k ∈ frameOffsets, canWrite .word (offsetBy (frameAt s) k) s = true

/-- An even displacement keeps the parity of an address. -/
theorem aligned_offsetBy {a : Addr} {k : Word} (even : k.toNat % 2 = 0) :
    aligned .word (offsetBy a k) = aligned .word a := by
  rw [Bool.eq_iff_iff, aligned_iff, aligned_iff, offsetBy_off, BitVec.toNat_add]
  simp only [reduceCtorEq, false_or]
  omega

/-- The frame can be written when its bytes can and its top is at an even address. -/
theorem frameWritable_of_bytes {s : State} (bytes : (frameBytes s).all (writable s) = true)
    (even : aligned .word (frameAt s) = true) : FrameWritable s := by
  intro k hk
  have evenOffset : ∀ k ∈ frameOffsets, k.toNat % 2 = 0 := by simp [frameOffsets]
  rw [frameBytes_eq, List.all_flatMap, List.all_eq_true] at bytes
  rw [canWrite, aligned_offsetBy (evenOffset k hk), even, Bool.true_and]
  exact bytes k hk

/-- The push as four stores at the frame. -/
theorem pushFrame_eq_stores (g : Guard) (id : Word) (spc : Addr) (s : State) : pushFrame g id spc s =
    (store g .word (offsetBy (frameAt s) 6#16) spc.off (frameBase s)).andThen fun u =>
    (store g .word (offsetBy (frameAt s) 4#16) (segmentWord spc.seg (draw 1 s)) u).andThen fun u =>
    (store g .word (offsetBy (frameAt s) 2#16) (s.fcw.toWord (reservedBits (draw 0 s))) u).andThen fun u =>
    store g .word (offsetBy (frameAt s) 0#16) id u := by
  rw [offsetBy_zero, ← pointer_frameBase]
  rfl

/-- A store that answers was to an address that can be written. -/
theorem canWrite_of_store_next {g : Guard} {w : Width} {a : Addr} {v : BitVec w.bits} {s t : State}
    (h : store g w a v s = .next t) : canWrite w a s = true := by
  obtain ⟨lined, answered, _⟩ := store_next h
  rw [canWrite, lined, answered, Bool.and_self]

theorem store_map {g : Guard} {w : Width} {a : Addr} {v : BitVec w.bits} {s t : State}
    (h : store g w a v s = .next t) : t.map = s.map := by
  obtain ⟨_, _, map⟩ := (frame_store h).environment
  exact map

theorem frameBase_map (s : State) : (frameBase s).map = s.map := by rw [frameBase_eq]

/-- A frame that was pushed could be written: the stores do not change where memory is. -/
theorem frameWritable_of_pushFrame {g : Guard} {id : Word} {spc : Addr} {s t : State}
    (h : pushFrame g id spc s = .next t) : FrameWritable s := by
  rw [pushFrame_eq_stores] at h
  obtain ⟨a1, h1, h⟩ := andThen_eq_next h
  obtain ⟨a2, h2, h⟩ := andThen_eq_next h
  obtain ⟨a3, h3, h4⟩ := andThen_eq_next h
  have m0 := frameBase_map s
  have m1 := (store_map h1).trans m0
  have m2 := (store_map h2).trans m1
  have m3 := (store_map h3).trans m2
  have top := (canWrite_congr m3).symm.trans (canWrite_of_store_next h4)
  rw [offsetBy_zero] at top
  have fcw := (canWrite_congr m2).symm.trans (canWrite_of_store_next h3)
  have seg := (canWrite_congr m1).symm.trans (canWrite_of_store_next h2)
  have off := (canWrite_congr m0).symm.trans (canWrite_of_store_next h1)
  simp [FrameWritable, frameOffsets, top, fcw, seg, off]

/-- A frame that can be written is pushed: each store answers, and leaves where memory is to the next. -/
theorem pushFrame_of_frameWritable {s : State} (g : Guard) (id : Word) (spc : Addr) (ready : FrameWritable s) :
    ∃ t, pushFrame g id spc s = .next t := by
  have stores {u : State} (map : u.map = s.map) {k : Word} (hk : k ∈ frameOffsets) (v : Word) :
      ∃ t, store g .word (offsetBy (frameAt s) k) v u = .next t ∧ t.map = s.map := by
    have stored := store_of_canWrite g v ((canWrite_congr map).trans (ready k hk))
    exact ⟨_, stored, (store_map stored).trans map⟩
  obtain ⟨a1, h1, m1⟩ := stores (frameBase_map s) (k := 6#16) (by simp [frameOffsets]) spc.off
  obtain ⟨a2, h2, m2⟩ := stores m1 (k := 4#16) (by simp [frameOffsets]) (segmentWord spc.seg (draw 1 s))
  obtain ⟨a3, h3, m3⟩ := stores m2 (k := 2#16) (by simp [frameOffsets]) (s.fcw.toWord (reservedBits (draw 0 s)))
  obtain ⟨a4, h4, _⟩ := stores m3 (k := 0#16) (by simp [frameOffsets]) id
  exact ⟨a4, by rw [pushFrame_eq_stores, h1, andThen_next, h2, andThen_next, h3, andThen_next, h4]⟩

/- When the new program status can be loaded (60_exceptions.md R331, R332). -/

theorem loadStatus_of_canRead {fcwAt pcAt : Addr} {s : State} (fcw : canRead .word fcwAt s = true)
    (pc : canRead .long pcAt s = true) (seg : (peek .word fcwAt s).getLsbD 15 = true) :
    loadStatus fcwAt pcAt s =
      .next (jumpTo (addrOf (peek .long pcAt s)) (setFcw (Fcw.ofWord (peek .word fcwAt s)) s)) := by
  have pc' : canRead .long pcAt (setFcw (Fcw.ofWord (peek .word fcwAt s)) s) = true := pc
  rw [loadStatus, load_of_canRead fcw, andThen_next, writeFcw_of_seg s seg, andThen_next, load_of_canRead pc',
    andThen_next]
  rfl

/- The entry (60_exceptions.md R332). -/

/-- With PSAP aligned an entry pushes its frame first. -/
theorem enter_of_pushFrame {g : Guard} {e : Event} {id : Word} {spc : Addr} {s u : State}
    (psap : s.psap.off.extractLsb' 0 8 = 0) (pushed : pushFrame g id spc s = .next u) :
    enter g e id spc s = if e = .vectored ∧ id.getLsbD 0 then .refused .oddVector
      else (loadStatus (newFcwAt e s) (newPcAt e id s) u).andThen fun v => .next (acknowledge e v) := by
  have same : u.psap = s.psap := by rw [pushFrame_eq pushed, frameBase_eq]
  rw [enter, if_neg (by simpa using psap), pushed, andThen_next, same]
  rfl

/-- What `entryReady` asks, condition by condition. -/
theorem entryReady_iff {e : Event} {id : Word} {s : State} : entryReady e id s = true ↔
    s.psap.off.extractLsb' 0 8 = 0 ∧ ¬ (e = .vectored ∧ id.getLsbD 0 = true) ∧ FrameWritable s ∧
      canRead .word (newFcwAt e s) s = true ∧ canRead .long (newPcAt e id s) s = true ∧
      (∀ a ∈ span .word (newFcwAt e s), a ∉ frameBytes s) ∧ (peek .word (newFcwAt e s) s).getLsbD 15 = true := by
  have vector : (!(decide (e = .vectored) && id.getLsbD 0)) = true ↔ ¬ (e = .vectored ∧ id.getLsbD 0 = true) := by
    simp only [Bool.not_eq_true', ← Bool.not_eq_true, Bool.and_eq_true, decide_eq_true_eq]
  simp only [entryReady, Bool.and_eq_true, vector]
  simp [FrameWritable, frameOffsets, and_assoc]

/-- An entry goes through where `entryReady` says so. -/
theorem enter_completes {e : Event} {id : Word} {s : State} (g : Guard) (spc : Addr)
    (ready : entryReady e id s = true) :
    ∃ t, enter g e id spc s = .next t := by
  obtain ⟨psap, even, frame, fcw, pc, apart, seg⟩ := entryReady_iff.mp ready
  obtain ⟨u, pushed⟩ := pushFrame_of_frameWritable g id spc frame
  have map : u.map = s.map := by rw [pushFrame_eq pushed, frameBase_map]
  have kept : peek .word (newFcwAt e s) u = peek .word (newFcwAt e s) s :=
    peek_congr _ _ fun c hc => pushFrame_memory pushed c (apart c hc)
  rw [enter_of_pushFrame psap pushed, if_neg even, loadStatus_of_canRead ((canRead_congr map).trans fcw)
    ((canRead_congr map).trans pc) (kept ▸ seg)]
  exact ⟨_, rfl⟩

end Sys2Proof.Machine

namespace Sys2Proof

open Machine

/-- Settles O56: an entry pushes its frame, then loads the program status. -/
theorem trapEntry : Obligations.TrapEntry := by
  refine fun g e id spc s => ⟨enter_completes g spc, fun t => entered_of_enter, fun psap => if_pos psap,
    fun psap vectored odd bytes even => ?_⟩
  obtain ⟨u, pushed⟩ := pushFrame_of_frameWritable g id spc (frameWritable_of_bytes bytes even)
  rw [enter_of_pushFrame psap pushed, if_pos ⟨vectored, odd⟩]

/- The internal traps (60_exceptions.md R334 to R336, R346). -/

/-- An instruction whose meaning is an entry enters the handler. -/
theorem trapsTo_of_exec {i : Instr} {s : State} {e : Event} {spc : Addr}
    (run : exec i s = enter (guardOf i s) e (firstWord i) spc s) (ready : entryReady e (firstWord i) s = true) :
    TrapsTo i s e spc := by
  obtain ⟨t, entered⟩ := enter_completes (guardOf i s) spc ready
  exact ⟨t, run.trans entered, entered_of_enter entered⟩

/-- Whichever way the open parameter goes. -/
theorem trapPcOf_trapPc (i : Instr) (s : State) : TrapPcOf i s (trapPc i s) := by
  unfold trapPc
  split
  · exact .inl rfl
  · exact .inr rfl

/-- The privileged instruction trap enters its handler (60_exceptions.md R335). -/
theorem trapsTo_privileged {i : Instr} {s : State} (run : exec i s = privilegedTrap i s)
    (ready : entryReady .privilegedInstruction (firstWord i) s = true) :
    ∃ spc, TrapPcOf i s spc ∧ TrapsTo i s .privilegedInstruction spc :=
  ⟨trapPc i s, trapPcOf_trapPc i s, trapsTo_of_exec run ready⟩

/-- EPA decides between the refusal and the trap (60_exceptions.md R334). -/
theorem extended_spec {i : Instr} (run : ∀ s, exec i s = extendedOpcode i s) : ExtendedSpec i := by
  refine fun s => ⟨fun epa => (run s).trans (if_pos epa), fun epa ready => ?_⟩
  have trap : exec i s = extendedTrap i s := (run s).trans (if_neg (by simp [epa]))
  exact ⟨trapPc i s, trapPcOf_trapPc i s, trapsTo_of_exec trap ready⟩

/-- In normal mode a privileged instruction is its trap (60_exceptions.md R335). -/
theorem exec_of_normalMode {i : Instr} {s : State} (priv : isPrivileged i = true) (mode : s.fcw.sn = false) :
    exec i s = privilegedTrap i s := by
  have trap (body : Res State) : privileged i s body = privilegedTrap i s := if_neg (by simp [mode])
  cases i
  case inbInd | inInd | outbInd | outInd | in_ | inb | sin | sinb | out | outb | sout | soutb | ldps | halt | iret |
      mset | mres | mbit | mreq | di | ei | ldctlRead | ldctlWrite | ini | inib | sini | sinib | inir | inirb | sinir |
      sinirb | ind | indb | sind | sindb | indr | indrb | sindr | sindrb | outi | outib | souti | soutib | otir | otirb |
      sotir | sotirb | outd | outdb | soutd | soutdb | otdr | otdrb | sotdr | sotdrb =>
    exact trap _
  all_goals cases priv

/-- The identifier of SC (60_exceptions.md R336). -/
theorem firstWord_sc (n : Byte) : firstWord (.sc n) = 0x7F#8 ++ n := by revert n; decide

/-- SC is the privileged instruction trap in normal mode where the open parameter makes it privileged, else the system
call trap (47_cpu_control.md R308). -/
theorem sc_spec {s : State} (n : Byte) (ready : entryReady .systemCall (firstWord (.sc n)) s = true) :
    (s.fcw.sn = true ∨ Config.scPrivileged = false → TrapsTo (.sc n) s .systemCall (after (.sc n) s)) ∧
    (s.fcw.sn = false → Config.scPrivileged = true →
      entryReady .privilegedInstruction (firstWord (.sc n)) s = true →
      ∃ spc, TrapPcOf (.sc n) s spc ∧ TrapsTo (.sc n) s .privilegedInstruction spc) := by
  refine ⟨fun call => trapsTo_of_exec (if_neg ?_) ready, fun mode priv => trapsTo_privileged (if_pos ⟨mode, priv⟩)⟩
  rintro ⟨mode, priv⟩
  simp [mode, priv] at call

/-- Settles O55: each instruction is its trap, and the entry goes through. -/
theorem trapResults : Obligations.TrapResults := by
  refine ⟨fun s n ready => ?_, fun lo w2 => ?_, fun i s priv mode ready => ?_⟩
  · obtain ⟨call, priv⟩ := sc_spec n ready
    refine ⟨fun mode => ⟨firstWord_sc n, call (.inl mode)⟩, fun mode readyPriv => ?_⟩
    cases param : Config.scPrivileged with
    | false => exact .inl ⟨rfl, call (.inr param)⟩
    | true => exact .inr ⟨rfl, priv mode param readyPriv⟩
  · exact ⟨extended_spec fun _ => rfl, extended_spec fun _ => rfl, extended_spec fun _ => rfl,
      extended_spec fun _ => rfl, extended_spec fun _ => rfl, extended_spec fun _ => rfl⟩
  · exact trapsTo_privileged (exec_of_normalMode priv mode) ready

/- The return from the handler (60_exceptions.md R344, 47_cpu_control.md R296). -/

/-- The address of two words, whatever the reserved bits of the first (20_memory.md R61). -/
theorem addrOf_append (x y : Word) : addrOf (x ++ y) = ⟨x.extractLsb' 8 7, y⟩ := by
  have seg : (x ++ y).extractLsb' 24 7 = x.extractLsb' 8 7 := BitVec.extractLsb'_append_eq_of_le (by decide)
  rw [addrOf, seg, word_lo]

/-- A long word is the two words at its address (20_memory.md R66). -/
theorem peek_long (a : Addr) (s : State) : peek .long a s = peek .word a s ++ peek .word (offsetBy a 2#16) s := by
  simp only [peek, offsetBy_offsetBy]
  exact BitVec.append_assoc

/-- After the push the system stack points to the frame. -/
theorem addrOf_pushed (s : State) : addrOf (s.r14s ++ (s.r15s - 8)) = frameAt s := by
  have base := frameBase_eq s
  have mode : (frameBase s).fcw.sn = true := by rw [base]
  rw [← pointer_frameBase, pointer_systemStack mode, base]

/-- Two readable words are a readable long word. -/
theorem canRead_long {a : Addr} {s : State} (high : canRead .word a s = true)
    (low : canRead .word (offsetBy a 2#16) s = true) : canRead .long a s = true := by
  simp only [canRead, span, offsetBy_offsetBy, List.all_cons, List.all_nil, Bool.and_true,
    Bool.and_eq_true] at high low ⊢
  obtain ⟨even, first, second⟩ := high
  obtain ⟨_, third, fourth⟩ := low
  exact ⟨even, first, second, third, fourth⟩

/-- A frame in writable memory whose FCW has SEG = 1 is a program status block. -/
theorem statusReady_frame {s t : State} (frame : FrameWritable s) (map : t.map = s.map)
    (seg : (peek .word (offsetBy (frameAt s) 2) t).getLsbD 15 = true) : statusReady (frameAt s) t = true := by
  have words {k : Word} (hk : k ∈ frameOffsets) : canRead .word (offsetBy (frameAt s) k) t = true :=
    (canRead_congr map).trans (canRead_of_canWrite (frame k hk))
  have top : canRead .word (frameAt s) t = true := by simpa using words (k := 0#16) (by simp [frameOffsets])
  have low : canRead .word (offsetBy (offsetBy (frameAt s) 4#16) 2#16) t = true := by
    rw [offsetBy_offsetBy]; exact words (by simp [frameOffsets])
  have pc := canRead_long (words (by simp [frameOffsets])) low
  exact statusReady_iff.mpr ⟨top, words (by simp [frameOffsets]), pc, seg⟩

/-- Settles O57: IRET loads the frame of the entry as a program status block (O54). -/
theorem trapReturnRestores : Obligations.TrapReturnRestores := by
  intro g e id spc s t run mode seg
  obtain ⟨_, _, _, _, pushed, _⟩ := enter_next run
  obtain ⟨⟨iret, _⟩, _⟩ := statusLoadResults t mode
  have entered := entered_of_enter run
  obtain ⟨r14s, r15s⟩ := entered.stack
  obtain ⟨gpr, r14n, r15n⟩ := entered.registers
  obtain ⟨_, _, map⟩ := entered.environment
  have stack : addrOf (t.r14s ++ t.r15s) = frameAt s := by rw [r14s, r15s, addrOf_pushed]
  have segSaved : (peek .word (offsetBy (frameAt s) 2) t).getLsbD 15 = true := by
    rw [← ofWord_seg, entered.savedFcw, seg]
  have ready := statusReady_frame (frameWritable_of_pushFrame pushed) map segSaved
  have savedPc : addrOf (peek .long (offsetBy (frameAt s) 4) t) = spc := by
    rw [peek_long, addrOf_append, offsetBy_offsetBy]
    exact congrArg₂ Addr.mk entered.savedSegment entered.savedOffset
  refine ⟨_, iret (stack ▸ ready), ?_, ?_, gpr, r14s, ?_, r14n, r15n, rfl⟩
  · rw [stack]; exact entered.savedFcw
  · rw [stack]; exact savedPc
  · rw [r15s]; exact BitVec.sub_add_cancel ..

end Sys2Proof
end

section
/-! PROOFS. What a step does at a boundary (60_exceptions.md R320, R338 to R347): the instruction at the PC, the event
that is pending, the wait of a halted machine, and reset (70_reset_and_hazards.md R370). -/

namespace Sys2Proof.Machine

/- The events, in the order of their priorities, with their masks (60_exceptions.md R341, R342). -/

section
variable {s : State}

theorem pendingEvent_nmi (nmi : s.nmiPending = true) : pendingEvent s = some .nmi := if_pos nmi

theorem pendingEvent_segmentTrap (nmi : s.nmiPending = false) (segt : s.segtReq = true) :
    pendingEvent s = some .segmentTrap := by
  simp [pendingEvent, nmi, segt]

theorem pendingEvent_vectored (nmi : s.nmiPending = false) (segt : s.segtReq = false) (vi : s.viReq = true)
    (vie : s.fcw.vie = true) : pendingEvent s = some .vectored := by
  simp [pendingEvent, nmi, segt, vi, vie]

theorem pendingEvent_nonVectored (nmi : s.nmiPending = false) (segt : s.segtReq = false)
    (vi : s.viReq = false ∨ s.fcw.vie = false) (nvi : s.nviReq = true) (nvie : s.fcw.nvie = true) :
    pendingEvent s = some .nonVectored := by
  simp [pendingEvent, nmi, segt, Bool.and_eq_false_iff.mpr vi, nvi, nvie]

theorem pendingEvent_none (nmi : s.nmiPending = false) (segt : s.segtReq = false)
    (vi : s.viReq = false ∨ s.fcw.vie = false) (nvi : s.nviReq = false ∨ s.fcw.nvie = false) :
    pendingEvent s = none := by
  simp [pendingEvent, nmi, segt, Bool.and_eq_false_iff.mpr vi, Bool.and_eq_false_iff.mpr nvi]

/- The step in each case of the boundary (60_exceptions.md R320). -/

theorem step_of_reset (reset : (sample s).resetReq = true) : step s = performReset (sample s) := if_pos reset

theorem step_of_event {e : Event} (reset : (sample s).resetReq = false) (seg : (sample s).fcw.seg = true)
    (pending : pendingEvent (sample s) = some e) : step s = takeEvent e (sample s) := by
  simp [step, reset, seg, pending]

theorem step_of_waiting (reset : (sample s).resetReq = false) (seg : (sample s).fcw.seg = true)
    (quiet : pendingEvent (sample s) = none) (halted : (sample s).halted = true) : step s = .next (sample s) := by
  simp [step, reset, seg, quiet, halted]

end

/- Fetch. -/

/-- At an even PC with no store outstanding the words that decode are the instruction fetched. -/
theorem fetch_of_decodes {s : State} {i : Instr} {rest : List Word} (look : s.stale = false)
    (even : s.pc.off.getLsbD 0 = false) (decodes : decodeWords (fetchWords 4 s.pc s) = .ok (i, rest)) :
    fetch s = .next i := by
  simp only [fetch, look, even, decodes, Bool.false_eq_true, if_false]

end Sys2Proof.Machine

namespace Sys2Proof

open Machine

theorem step_of_decodes {s : State} {i : Instr} {rest : List Word} (boundary : AtInstruction (sample s))
    (decodes : decodeWords (fetchWords 4 (sample s).pc (sample s)) = .ok (i, rest)) :
    step s = exec i (sample s) := by
  obtain ⟨reset, seg, quiet, running, look, even⟩ := boundary
  rw [step_at_instruction reset seg quiet running, fetch_of_decodes look even decodes, andThen_next]

/-- Settles O1: what the decoder accepts is well formed (O5), and a step is the fetch and the instruction. -/
theorem stepRunsDecoded : Obligations.StepRunsDecoded := fun _ _ _ boundary decodes =>
  ⟨(encodeDecode _ _ _ decodes).1, step_of_decodes boundary decodes⟩

/- The words of an encoding in memory (30_encoding.md R93, R133). -/

/-- An encoding has at most four words, as many as are fetched (30_encoding.md R93). -/
theorem encode_length_le (i : Instr) : (encode i).length ≤ 4 := by
  refine And.right (?_ : Laws.EncodingLength.Statement i)
  cases i with
  | addb | add | addl | subb | sub | subl | orb | or | andb | and | xorb | xor | cpb | cp | cpl | ldb | ld | ldl | mult
  | multl | div | divl =>
    exact Laws.EncodingLength.of_src _ _ _ _ rfl
  | exb | ex | comb | com | negb | neg | testb | test | testl | tsetb | tset | clrb | clr | resb | res | setb | set
  | bitb | bit | incb | inc | decb | dec =>
    exact Laws.EncodingLength.of_opd _ (encodeOpd_length _ _ _)
  | push | pushl | pop | popl => exact Laws.EncodingLength.of_opd _ (encodeStack_length _ _ _)
  | cpbImm | cpImm | ldbImm | ldImm => exact Laws.EncodingLength.of_memImm _ _ _ _ rfl
  | ldmLoad | ldmStore => exact Laws.EncodingLength.of_multiple _ _ _ _ rfl
  | ldbStore | ldStore | ldlStore | jp | call | ldps => exact Laws.EncodingLength.of_mem _ (encodeMem_length _ _ _)
  | lda => exact Laws.EncodingLength.of_direct _ _ rfl
  -- One word, or one word after the first (30_encoding.md R93).
  | ldctlbRead | ldctlbWrite | setflg | resflg | comflg | nop | ret | tccb | tcc | inbInd | inInd | outbInd | outInd
  | halt | iret | mset | mres | mbit | mreq | di | ei | ldctlRead | ldctlWrite | sc | dab | extsb | exts | extsl | adcb
  | adc | sbcb | sbc | rldb | rrdb | ldk | rlb | rl | rrb | rr | rlcb | rlc | rrcb | rrc | ldbShort | calr | jr | dbjnz
  | djnz =>
    exact Laws.EncodingLength.of_one rfl
  | _ => exact Laws.EncodingLength.of_two rfl

/-- The words that stand at an address are fetched, before whatever follows them. -/
theorem fetchWords_of_wordsAt {n : Nat} {a : Addr} {ws : List Word} {s : State} (stand : WordsAt a ws s)
    (fits : ws.length ≤ n) : ∃ rest, fetchWords n a s = ws ++ rest := by
  induction ws generalizing n a with
  | nil => exact ⟨fetchWords n a s, rfl⟩
  | cons w ws ih =>
    obtain ⟨m, rfl⟩ : ∃ m, n = m + 1 := ⟨n - 1, by simp at fits; omega⟩
    obtain ⟨present, value⟩ := stand 0 (by simp)
    rw [wordAt_zero] at present value
    have tail : WordsAt (offsetBy a 2#16) ws s := fun k hk => by
      rw [wordAt_succ]
      exact stand (k + 1) (Nat.succ_lt_succ hk)
    obtain ⟨rest, fetched⟩ := ih tail (Nat.le_of_succ_le_succ fits)
    exact ⟨rest, by rw [fetchWords_of_canRead present, fetched, value]; rfl⟩

/-- Settles O2: the fetch reads the words of the encoding, and the decoder gives the instruction back (O4). -/
theorem stepRunsEncoded : Obligations.StepRunsEncoded := by
  intro s i boundary wf stand
  obtain ⟨rest, fetched⟩ := fetchWords_of_wordsAt stand (encode_length_le i)
  exact step_of_decodes boundary (fetched ▸ decodeEncode i rest wf)

/-- Settles O58: the event that is pending by priority and masks, or none, decides the step. -/
theorem boundaryEvents : Obligations.BoundaryEvents := by
  intro s u take reset seg
  have event {e : Event} (pending : pendingEvent u = some e) : step s = take e := step_of_event reset seg pending
  exact ⟨fun nmi => event (pendingEvent_nmi nmi), fun nmi segt => event (pendingEvent_segmentTrap nmi segt),
    fun nmi segt vi vie => event (pendingEvent_vectored nmi segt vi vie),
    fun nmi segt vi nvi nvie => event (pendingEvent_nonVectored nmi segt vi nvi nvie),
    fun nmi segt vi nvi halted => step_of_waiting reset seg (pendingEvent_none nmi segt vi nvi) halted⟩

/- Reset (70_reset_and_hazards.md R370). -/

/-- With its three words readable a reset is decided by the FCW it loads. -/
theorem performReset_of_canRead {s : State} (fcw : canRead .word ⟨0, 2⟩ s = true) (seg : canRead .word ⟨0, 4⟩ s = true)
    (off : canRead .word ⟨0, 6⟩ s = true) :
    ((peek .word ⟨0, 2⟩ s).getLsbD 15 = true → ∃ t, performReset s = .next t ∧
      t.halted = false ∧ t.mo = false ∧ t.nmiPending = false) ∧
    ((peek .word ⟨0, 2⟩ s).getLsbD 15 = false → performReset s = .refused .segZero) := by
  simp only [performReset, load_of_canRead fcw, load_of_canRead seg, load_of_canRead off, andThen_next]
  refine ⟨fun bit => ?_, fun bit => ?_⟩
  · rw [writeFcw_of_seg s bit]
    exact ⟨_, rfl, rfl, rfl, rfl⟩
  · rw [writeFcw_of_segZero s bit, andThen_refused]

/-- Settles O59: the reset that answers, with its fields from `performReset_next`. -/
theorem resetStep : Obligations.ResetStep := by
  intro s u reset fcw seg off
  obtain ⟨answers, refuses⟩ := performReset_of_canRead fcw seg off
  rw [step_of_reset reset]
  refine ⟨fun bit => ?_, refuses⟩
  obtain ⟨t, run, halted, mo, nmi⟩ := answers bit
  obtain ⟨_, newFcw, newPc, mem, _, trace, _⟩ := performReset_next run
  exact ⟨t, run, newFcw, newPc, halted, mo, nmi, mem, trace⟩

end Sys2Proof
end
